-- ==== Sys2Proof/Word.lean ====
section
/-! DEFINITION. The plain words of the XE24: bytes, port numbers, the traffic classes, fixed tables, and sets of
outputs held as the 24-bit maps the manual lays them out in (R7, R173). -/

namespace Sys2Proof

/-- One byte on a link or on a management port; bit 7 is the most significant (00_scope, Conventions). -/
abbrev Byte := BitVec 8

/-- A fabric port, an input or an output: 0 to 23 (00_scope, Conventions). -/
abbrev PortId := Fin 24

/-- A credit epoch, 0 to 7, that wraps (R23). -/
abbrev Epoch := BitVec 3

/-- Every fabric port, in rising order. -/
def allPorts : List PortId :=
  [0, 1, 2, 3, 4, 5, 6, 7, 8, 9, 10, 11, 12, 13, 14, 15, 16, 17, 18, 19, 20, 21, 22, 23]

/-- A fixed number of like things, addressed by `Fin n`. -/
abbrev Table (α : Type) (n : Nat) := Vector α n

namespace Table

variable {α β : Type} {n : Nat}

/-- The thing at index `i`. -/
def get (t : Table α n) (i : Fin n) : α := t[i.val]

/-- The table with `x` at index `i`. -/
def put (t : Table α n) (i : Fin n) (x : α) : Table α n := Vector.set t i.val x i.isLt

/-- The table whose entry at `i` is `f i`. -/
def ofFn (f : Fin n → α) : Table α n := ⟨⟨(List.finRange n).map f⟩, by simp⟩

/-- The table with `x` at every index. -/
def fill (x : α) : Table α n := ofFn fun _ => x

/-- The table with `f` applied to every entry. -/
def map (f : α → β) (t : Table α n) : Table β n := ofFn fun i => f (t.get i)

end Table

/-- A set of outputs 0 to 23; bit `o` stands for output `o` (R7, R173). -/
abbrev OutSet := BitVec 24

namespace OutSet

/-- The empty set, written {} in the manual. -/
def empty : OutSet := 0#24

/-- Whether output `o` is in the set. -/
def has (x : OutSet) (o : PortId) : Bool := x.getLsbD o.val

/-- The set that holds output `o` alone. -/
def single (o : PortId) : OutSet := 1#24 <<< o.val

/-- The set with output `o` added. -/
def add (x : OutSet) (o : PortId) : OutSet := x ||| single o

/-- The set with output `o` taken out. -/
def drop (x : OutSet) (o : PortId) : OutSet := x &&& ~~~(single o)

/-- The outputs in both sets. -/
def inter (x y : OutSet) : OutSet := x &&& y

/-- The set of the outputs that satisfy `f`. -/
def ofPred (f : PortId → Bool) : OutSet :=
  allPorts.foldl (fun x o => if f o then add x o else x) empty

/-- The outputs of the set, in rising order. -/
def toList (x : OutSet) : List PortId := allPorts.filter (has x)

end OutSet

end Sys2Proof
end

