-- ==== Sys2Proof/Syntax.lean ====
section
/-! DEFINITION. The commands of the XE24: one constructor for each row of spec/opcode_table.json, with the operands
the row's event brings from outside (95_what_each_step_holds.md). The first eighteen are events of the links, the
transmitters and the timers; from `transactionAbandoned` on they are transactions of a management port, whose operand
`args` is the argument bytes of the command record as they were shifted in (bytes 2 to n + 1, R169). -/

namespace Sys2Proof

/-- A management port, SP0 or SP1 (R167). -/
inductive SupPort where
  | sp0
  | sp1
deriving DecidableEq, Repr

/-- What the receiver had partly taken in when lock was lost (R18). A cell is in reception from its start-of-cell
symbol to its closing symbol, a control word from its start-of-word symbol to its last data byte. -/
inductive CutShort where
  | nothing
  | cell
  | word
deriving DecidableEq, Repr

/-- How a cell that the receiver hands to the classifier was closed (R1): by its end-of-cell symbol, or early by the
start symbol of a new unit. -/
inductive CellEnd where
  | endOfCell
  | startSymbol
deriving DecidableEq, Repr

/-- What the line code of a fabric link carries, in either direction (R1): the framing symbols, the data bytes, and the fill
symbols between units. -/
inductive Symbol where
  | startOfCell
  | startOfWord
  | data (b : Byte)
  | endOfCell
  | abortMark
  | fill
deriving DecidableEq, Repr

/-- The eight data bytes of a control word, byte 0 first (R5). -/
abbrev ControlWord := Table Byte 8

/-- The commands, one constructor for each row of the table, in the table's order. -/
inductive Instr where
  /-- RESET_N rises (R22). -/
  | powerUpReset
  /-- The receiver of port `p` acquires lock (R9, R11). -/
  | lockAcquired (p : PortId)
  /-- The receiver of port `p` loses lock, cutting short what was in reception (R12, R18). -/
  | lockLost (p : PortId) (cut : CutShort)
  /-- Port `p` receives a word of type MARKER; its eight bytes say whether it is good or bad (R8, R11, R12). -/
  | markerReceived (p : PortId) (word : ControlWord)
  /-- Port `p` receives a HOLD whose check passes (R132). -/
  | hold (p : PortId)
  /-- Port `p` receives a RELEASE whose check passes (R133). -/
  | release (p : PortId)
  /-- Port `p` receives an IDLE word whose check passes (R17). -/
  | idleReceived (p : PortId)
  /-- Port `p` receives a CONTROL_ERROR word (R5, R17). -/
  | controlErrorWord (p : PortId)
  /-- A control word of port `p` is interrupted before its eighth data byte (R1). -/
  | wordDropped (p : PortId)
  /-- Line card `p` closes a cell with an abort mark (R1). -/
  | abortedCell (p : PortId)
  /-- A cell with the data bytes `data` is closed on input `p` (R1, R24, R26). -/
  | cellReceptionComplete (p : PortId) (data : List Byte) (closed : CellEnd)
  /-- The egress link of port `o` stands at a unit boundary (R127). -/
  | unitBoundary (o : PortId)
  /-- The end-of-cell symbol of the cell in service of output `o` has been sent (R125). -/
  | departure (o : PortId)
  /-- The last byte of a CREDIT word has gone on egress link `o` (R53). -/
  | creditWordCompletion (o : PortId)
  /-- The last byte of a RESYNC word has gone on egress link `o` (R129). -/
  | resyncCompletion (o : PortId)
  /-- The last byte of a CONGESTION word has gone on egress link `o` (R130). -/
  | congestionWordCompletion (o : PortId)
  /-- The hold timer of output `o` has run for its limit (R134). -/
  | holdTimerExpiry (o : PortId)
  /-- The mastership timer has run for its period (R180). -/
  | mastershipTimerExpiry
  /-- Select rises early on management port `sp` (R168): before the command record is complete, or before its response has
  been shifted out whole. -/
  | transactionAbandoned (sp : SupPort)
  /-- A complete record whose check fails or whose code names no command (R171, tests 1 and 2). -/
  | unknownCommand (sp : SupPort) (record : List Byte)
  | status (sp : SupPort) (args : List Byte)
  | portRead (sp : SupPort) (args : List Byte)
  | queueRead (sp : SupPort) (args : List Byte)
  | replicationRead (sp : SupPort) (args : List Byte)
  | creditRead (sp : SupPort) (args : List Byte)
  | groupRead (sp : SupPort) (args : List Byte)
  | groupProbe (sp : SupPort) (args : List Byte)
  | arbiterRead (sp : SupPort) (args : List Byte)
  | monitorRead (sp : SupPort) (args : List Byte)
  | meterRead (sp : SupPort) (args : List Byte)
  | countersRead (sp : SupPort) (args : List Byte)
  | noticesRead (sp : SupPort) (args : List Byte)
  | noticesClear (sp : SupPort) (args : List Byte)
  | noticeConfig (sp : SupPort) (args : List Byte)
  | claim (sp : SupPort) (args : List Byte)
  | relinquish (sp : SupPort) (args : List Byte)
  | keepalive (sp : SupPort) (args : List Byte)
  /-- PORT_ADMIN (code 0x20) with the action ENABLE (R159). The three PORT_ADMIN rows carry the whole argument list
  of the record, the port byte and the action byte. -/
  | portAdminEnable (sp : SupPort) (args : List Byte)
  /-- PORT_ADMIN with the action DRAIN (R160). -/
  | portAdminDrain (sp : SupPort) (args : List Byte)
  /-- PORT_ADMIN with the action DISABLE (R161). -/
  | portAdminDisable (sp : SupPort) (args : List Byte)
  | portReset (sp : SupPort) (args : List Byte)
  | portResync (sp : SupPort) (args : List Byte)
  | linkParams (sp : SupPort) (args : List Byte)
  | guardSet (sp : SupPort) (args : List Byte)
  | guardResume (sp : SupPort) (args : List Byte)
  | groupInstall (sp : SupPort) (args : List Byte)
  | groupRemove (sp : SupPort) (args : List Byte)
  | groupRemoveId (sp : SupPort) (args : List Byte)
  | groupFlush (sp : SupPort) (args : List Byte)
  | weightStage (sp : SupPort) (args : List Byte)
  | weightStageRow (sp : SupPort) (args : List Byte)
  | expressSet (sp : SupPort) (args : List Byte)
  | holdLimit (sp : SupPort) (args : List Byte)
  | thresholds (sp : SupPort) (args : List Byte)
  | meterSet (sp : SupPort) (args : List Byte)
  | meterStart (sp : SupPort) (args : List Byte)
  | meterStop (sp : SupPort) (args : List Byte)
  | meterCapture (sp : SupPort) (args : List Byte)
  | countersClear (sp : SupPort) (args : List Byte)
  | timerPeriod (sp : SupPort) (args : List Byte)
  | fabricReset (sp : SupPort) (args : List Byte)
deriving DecidableEq, Repr

end Sys2Proof
end

