-- ==== Sys2Proof/Machine/Blocks.lean ====
section
/-! DEFINITION. What each block of the XE24 holds (the block diagram of 00_scope.md), as plain data, and the value each
block takes at power-up reset. Counts are `Nat`; what the manual lays out or wraps as bits is a bit vector. -/

namespace Sys2Proof.Machine

open Sys2Proof

/-! ### Classes and credit keys -/

/-- A traffic class (00_scope, Conventions); its code is bit 5 of byte 0 of a cell header (R3). -/
inductive Class where
  | bulk
  | express
deriving DecidableEq, Repr

/-- A credit key of a port, numbered as R6 and R49: `2 × o + c` for output `o` and class `c`, and 48 for M. -/
abbrev Key := Fin 49

/-! ### Link receiver and qualifier (chapter 1) -/

/-- The link state (R10). -/
inductive LinkState where
  | down
  | holdoff
  | qualifying
  | up
deriving DecidableEq, Repr

/-- The receiver's lock (R9) and the link qualifier (R10) of a port. -/
structure Receiver where
  locked : Bool
  link : LinkState
  holdoff : Nat
  good : Nat
  bad : Nat
  h : Nat
  q : Nat
  f : Nat
deriving DecidableEq, Repr

/-- Power-up: unlocked, DOWN, counts 0, H, Q and F at 16, 8 and 4 (R22). -/
def Receiver.powerUp : Receiver :=
  { locked := false, link := .down, holdoff := 0, good := 0, bad := 0, h := 16, q := 8, f := 4 }

/-! ### Ingress guard (chapter 2) -/

/-- Guard mode (R37). -/
inductive GuardMode where
  | report
  | freeze
deriving DecidableEq, Repr

/-- Guard state (R37). -/
inductive GuardState where
  | normal
  | frozen
deriving DecidableEq, Repr

/-- The four kinds of fault (R37). -/
inductive FaultKind where
  | headerError
  | badDest
  | overdraft
  | controlError
deriving DecidableEq, Repr

/-- The guard record of a port (R37). -/
structure Guard where
  mode : GuardMode
  tolerate : Bool
  state : GuardState
  first : Option FaultKind
  count : Nat
deriving DecidableEq, Repr

/-- Power-up values of the guard record (R43). -/
def Guard.powerUp : Guard :=
  { mode := .report, tolerate := false, state := .normal, first := none, count := 0 }

/-! ### Crosspoint queues and replication queues (chapters 3 and 5) -/

/-- An entry of a crosspoint queue (R44). -/
structure CellEntry where
  cls : Class
  flow : BitVec 16
  plane : Byte
  payload : List Byte
  restart : Bool
deriving DecidableEq, Repr

/-- An entry of a replication queue (R87). -/
structure CopyEntry where
  group : BitVec 12
  cls : Class
  remaining : OutSet
  inService : OutSet
  flow : BitVec 16
  plane : Byte
  payload : List Byte
deriving DecidableEq, Repr

/-! ### Credit account (chapter 3) -/

/-- The credit word in flight (R52): its epoch, its non-empty entries in order, and its void mark (R54). -/
structure CreditWord where
  epoch : Epoch
  entries : List (Key × Nat)
  void : Bool
deriving DecidableEq, Repr

/-- The credit account of a port (R49, R51, R52, R56). -/
structure Account where
  outstanding : Table Nat 49
  pending : Table Nat 49
  returnList : List Key
  resyncPending : Bool
  inFlight : Option CreditWord
deriving DecidableEq, Repr

/-- Power-up values of a credit account (R65). -/
def Account.powerUp : Account :=
  { outstanding := .fill 0, pending := .fill 0, returnList := [], resyncPending := false, inFlight := none }

/-! ### Group table (chapter 4) -/

/-- A class selector (R68). -/
inductive Selector where
  | neither
  | bulkOnly
  | expressOnly
  | either
deriving DecidableEq, Repr

/-- One of the 1,024 entries (R67). -/
structure GroupEntry where
  valid : Bool
  tag : Nat
  sel : Selector
  fanout : OutSet
  hits : Nat
deriving DecidableEq, Repr

/-- A set of four ways with its pseudo-LRU tree (R67, R69). -/
structure GroupSet where
  ways : Table GroupEntry 4
  root : Bool
  l : Bool
  r : Bool
deriving DecidableEq, Repr

/-- Power-up values of an entry (R85). -/
def GroupEntry.powerUp : GroupEntry :=
  { valid := false, tag := 0, sel := .neither, fanout := OutSet.empty, hits := 0 }

/-- Power-up values of a set (R85). -/
def GroupSet.powerUp : GroupSet :=
  { ways := .fill GroupEntry.powerUp, root := false, l := false, r := false }

/-! ### Output arbiter (chapter 6) -/

/-- An alternation flag (R101). -/
inductive Turn where
  | unicast
  | multicast
deriving DecidableEq, Repr

/-- The arbiter of one output (R101). -/
structure Arbiter where
  weight : Table Nat 24
  staged : Table Nat 24
  allowance : Table Nat 24
  bulkPtr : PortId
  sparePtr : PortId
  expressPtr : PortId
  turn : Table Turn 24
  level : Nat
  rate : Nat
  burst : Nat
  rounds : BitVec 32
deriving DecidableEq, Repr

/-- Power-up values of an arbiter (R121). -/
def Arbiter.powerUp : Arbiter :=
  { weight := .fill 1, staged := .fill 1, allowance := .fill 0, bulkPtr := 23, sparePtr := 23, expressPtr := 23,
    turn := .fill .unicast, level := 0, rate := 0, burst := 1, rounds := 0#32 }

/-! ### Egress transmitter (chapter 7) -/

/-- Transmitter state (R122). -/
inductive TxState where
  | down
  | idle
  | sending
  | held
  | stalled
deriving DecidableEq, Repr

/-- A hold limit (R122, R136). -/
inductive HoldLimit where
  | off
  | ms1
  | ms8
  | ms64
deriving DecidableEq, Repr

/-- Where the cell in service stands (R122): the head of X(`input`, o, c), or the copy toward o of the entry of input
`input`'s replication queue that holds o in its in-service set (R87: at most one does). -/
inductive Source where
  | cell (input : PortId) (c : Class)
  | copy (input : PortId)
deriving DecidableEq, Repr

/-- The cell in service with its aborted and started marks (R122). -/
structure Service where
  src : Source
  aborted : Bool
  started : Bool
deriving DecidableEq, Repr

/-- The unit an egress link carries from one unit boundary to the unit's end (R127). The contents of a word are fixed at
the boundary that takes it; a cell carries its eight header bytes (R4) and its payload. -/
inductive LinkUnit where
  | idle
  | marker
  | resync (epoch : Epoch)
  | congestion (map : OutSet)
  | credit (epoch : Epoch) (entries : List (Key × Nat))
  | cell (header : List Byte) (payload : List Byte)
deriving DecidableEq, Repr

/-- How a unit on an egress link has ended (R1): whole, with the end-of-cell symbol of a cell or the eighth byte of a word;
with the abort mark that closes a cell (R123, R126, R132, R137); or short, as a word does when the link leaves UP
(R123). -/
inductive UnitEnd where
  | whole
  | abortMark
  | short
deriving DecidableEq, Repr

/-- The egress transmitter of a port (R122). `timer` holds the limit a running hold timer was started with. `onLink` is
the unit in transmission; it is absent between a unit's end and the boundary that chooses the next. `closed` is how the
last unit to end has ended, absent until one has. -/
structure Transmitter where
  state : TxState
  service : Option Service
  timer : Option HoldLimit
  limit : HoldLimit
  congestionUpdate : Bool
  resyncWord : Option Epoch
  wordOwed : Bool
  spacing : Nat
  onLink : Option LinkUnit
  closed : Option UnitEnd
deriving DecidableEq, Repr

/-- Power-up values of a transmitter (R138). -/
def Transmitter.powerUp : Transmitter :=
  { state := .down, service := none, timer := none, limit := .ms8, congestionUpdate := false, resyncWord := none,
    wordOwed := false, spacing := 256, onLink := none, closed := none }

/-! ### Occupancy monitor and meters (chapter 8) -/

/-- The occupancy monitor of an output (R139, R141). -/
structure Monitor where
  waiting : Nat
  th : Nat
  tl : Nat
  flag : Bool
deriving DecidableEq, Repr

/-- Power-up values of a monitor (R146). -/
def Monitor.powerUp : Monitor := { waiting := 0, th := 0, tl := 0, flag := false }

/-- A meter's selector (R147). -/
inductive MeterSel where
  | all
  | express
  | bulk
  | multicast
  | fromInput (i : PortId)
deriving DecidableEq, Repr

/-- A meter's count mode (R147). -/
inductive MeterMode where
  | wrap
  | saturate
deriving DecidableEq, Repr

/-- One of the eight meters (R147); `running` is the state RUNNING, its negation STOPPED. -/
structure Meter where
  target : PortId
  sel : MeterSel
  mode : MeterMode
  running : Bool
  count : Nat
  snapshot : Nat
  interval : Nat
  seen : Nat
deriving DecidableEq, Repr

/-- Power-up values of a meter (R155). -/
def Meter.powerUp : Meter :=
  { target := 0, sel := .all, mode := .wrap, running := false, count := 0, snapshot := 0, interval := 0, seen := 0 }

/-! ### Port administration and counters (chapters 9 and 11) -/

/-- The administration state of a port (R156). -/
inductive AdminState where
  | enabled
  | draining
  | disabled
deriving DecidableEq, Repr

/-- The fifteen counters of a port, in the order of R189's table. -/
inductive Counter where
  | accepted
  | notUp
  | linkLoss
  | admin
  | headerError
  | staleEpoch
  | badDest
  | overdraft
  | frozen
  | unavailable
  | groupMiss
  | emptyFanout
  | controlError
  | departed
  | flushed
deriving DecidableEq, Repr

/-- The place of a counter in R189's order. -/
def Counter.index : Counter → Fin 15
  | .accepted => 0
  | .notUp => 1
  | .linkLoss => 2
  | .admin => 3
  | .headerError => 4
  | .staleEpoch => 5
  | .badDest => 6
  | .overdraft => 7
  | .frozen => 8
  | .unavailable => 9
  | .groupMiss => 10
  | .emptyFanout => 11
  | .controlError => 12
  | .departed => 13
  | .flushed => 14

/-! ### One port -/

/-- Everything the part holds for port `p`: as an input its receiver, epoch, guard, account, the 48 crosspoint queues
X(p, o, c) (addressed `2 × o + c`, as their credit keys) and its replication queue; as an output its arbiter, transmitter
and monitor; and its administration state and counters. -/
structure Port where
  rx : Receiver
  epoch : Epoch
  guard : Guard
  account : Account
  queues : Table (List CellEntry) 48
  copies : List CopyEntry
  arbiter : Arbiter
  tx : Transmitter
  monitor : Monitor
  admin : AdminState
  counters : Table Nat 15
deriving DecidableEq, Repr

/-- Power-up values of a port (R22, R43, R65, R100, R121, R138, R146, R166, R191). -/
def Port.powerUp : Port :=
  { rx := .powerUp, epoch := 0#3, guard := .powerUp, account := .powerUp, queues := .fill [], copies := [],
    arbiter := .powerUp, tx := .powerUp, monitor := .powerUp, admin := .disabled, counters := .fill 0 }

/-! ### Mastership unit (chapter 10) -/

/-- The mastership holder's health (R176). -/
inductive Health where
  | healthy
  | alerted
deriving DecidableEq, Repr

/-- The keepalive token pointer (R176). -/
inductive TokenPtr where
  | expectA
  | expectB
deriving DecidableEq, Repr

/-- A mastership timer period (R176). -/
inductive Period where
  | ms50
  | ms200
  | s1
  | s4
deriving DecidableEq, Repr

/-- The mastership unit (R176); the holder NONE is `none`, a stopped timer is `none`, and a running timer holds the
period it was started with. -/
structure Mastership where
  holder : Option SupPort
  health : Health
  pointer : TokenPtr
  armed : Bool
  timer : Option Period
  period : Period
deriving DecidableEq, Repr

/-- Power-up values of the mastership unit (R176). -/
def Mastership.powerUp : Mastership :=
  { holder := none, health := .healthy, pointer := .expectA, armed := false, timer := none, period := .s1 }

/-! ### Notice units (chapter 11) -/

/-- An edge setting (R184). -/
inductive EdgeSetting where
  | none
  | rise
  | fall
  | both
deriving DecidableEq, Repr

/-- The ten notice kinds (R184). -/
inductive NoticeKind where
  | link
  | congestion
  | frozen
  | stall
  | fault
  | drainDone
  | evict
  | alert
  | change
  | capture
deriving DecidableEq, Repr

/-- A (kind, index) pair (R184). -/
structure NoticePair where
  kind : NoticeKind
  index : Nat
deriving DecidableEq, Repr

/-- A notice on its way to both notice units (R184): an edge of a level kind with its direction, or an event. An EVICT
names the set (R77). -/
inductive Notice where
  | link (p : PortId) (rising : Bool)
  | congestion (o : PortId) (rising : Bool)
  | frozen (p : PortId) (rising : Bool)
  | stall (o : PortId) (rising : Bool)
  | fault (p : PortId)
  | drainDone (p : PortId)
  | evict (set : Fin 256)
  | alert
  | change
  | capture (m : Fin 8)
deriving DecidableEq, Repr

/-- A notice unit (R184): its configuration, its ordered set of latched pairs, oldest first, its evict set number and its
alarm line (asserted, driven low, is `true`). -/
structure NoticeUnit where
  link : EdgeSetting
  congestion : EdgeSetting
  frozen : EdgeSetting
  stall : EdgeSetting
  fault : Bool
  drainDone : Bool
  evict : Bool
  alert : Bool
  change : Bool
  capture : Bool
  latched : List NoticePair
  evictSet : Nat
  alarm : Bool
deriving DecidableEq, Repr

/-- Power-up values of a notice unit (R191). -/
def NoticeUnit.powerUp : NoticeUnit :=
  { link := .none, congestion := .none, frozen := .none, stall := .none, fault := false, drainDone := false,
    evict := false, alert := false, change := false, capture := false, latched := [], evictSet := 0, alarm := false }

/-! ### Responses (R170 and the entry of each command) -/

/-- The status codes (R170). -/
inductive Status where
  | ok
  | notMaster
  | alreadyHeld
  | duplicate
  | badArgument
  | meterRunning
  | unknownCommand
deriving DecidableEq, Repr

/-- The part of STATUS that is about one port (R174). -/
structure PortSummary where
  link : LinkState
  admin : AdminState
  tx : TxState
  available : Bool
deriving DecidableEq, Repr

/-- The data of a PORT_READ response (R175, R122). `entry` is the position, from 0 at the head, of the replication entry
whose copy is in service, where the cell in service is a copy. -/
structure PortReadData where
  rx : Receiver
  admin : AdminState
  epoch : Epoch
  guard : Guard
  tx : TxState
  service : Option Service
  entry : Option Nat
  timer : Option HoldLimit
  limit : HoldLimit
  congestionUpdate : Bool
  resyncWord : Option Epoch
  wordOwed : Bool
  spacing : Nat
  available : Bool
deriving DecidableEq, Repr

/-- What QUEUE_READ gives of one entry (R48). -/
structure QueueItem where
  flow : BitVec 16
  plane : Byte
  restart : Bool
  inService : Bool
deriving DecidableEq, Repr

/-- What REPLICATION_READ gives of one entry (R98); `aborted` holds the outputs of the in-service set whose copy waits
aborted, the others of that set are being sent. -/
structure CopyItem where
  group : BitVec 12
  cls : Class
  remaining : OutSet
  inService : OutSet
  aborted : OutSet
  flow : BitVec 16
  plane : Byte
deriving DecidableEq, Repr

/-- What CREDIT_READ gives of one key (R64). -/
structure KeyCounts where
  occupancy : Nat
  outstanding : Nat
  pending : Nat
deriving DecidableEq, Repr

/-- The tree bits of a set with the victim they give (R70, R82). -/
structure TreeData where
  root : Bool
  l : Bool
  r : Bool
  victim : Fin 4
deriving DecidableEq, Repr

/-- What GROUP_PROBE gives on a hit (R83). -/
structure ProbeHit where
  way : Fin 4
  fanout : OutSet
  hits : Nat
deriving DecidableEq, Repr

/-- How an install took its way (R78). -/
inductive Placed where
  | inPlace
  | invalidWay
  | evicted (tag : Nat) (sel : Selector) (fanout : OutSet)
deriving DecidableEq, Repr

/-- One pair of a NOTICES_READ response, with the level of a level kind (R187). -/
structure NoticeItem where
  kind : NoticeKind
  index : Nat
  level : Bool
deriving DecidableEq, Repr

/-- The settings NOTICE_CONFIG writes (R185). -/
inductive Setting where
  | edge (e : EdgeSetting)
  | enable (on : Bool)
deriving DecidableEq, Repr

/-- The data of a response: what each command's entry says its response carries. The byte layout of most of it is not in
the manual (see `Sys2Proof.Config.responseLayout` and `Sys2Proof.Config.noticesLayout`). -/
inductive RespData where
  /-- No data. -/
  | empty
  /-- The one data byte of BAD_ARGUMENT (R170): 0xFF, 0xFE, or the position of the argument refused. -/
  | badArgument (where_ : Byte)
  /-- The conflicting way of DUPLICATE (R76). -/
  | duplicate (way : Fin 4)
  /-- R174. -/
  | status (requester : SupPort) (master : Mastership) (ports : List PortSummary) (map : OutSet) (latched : Nat)
      (alarm : Bool)
  /-- R175. -/
  | port (d : PortReadData)
  /-- R48. -/
  | queue (express bulk : List QueueItem)
  /-- R98. -/
  | replication (items : List CopyItem)
  /-- R64. -/
  | credit (epoch : Epoch) (resyncPending : Bool) (inFlight : Option CreditWord) (keys : List KeyCounts)
      (returnList : List Key)
  /-- R82. -/
  | group (entry : GroupEntry) (id : Nat) (tree : TreeData)
  /-- R83. -/
  | probe (hit : Option ProbeHit) (tree : TreeData)
  /-- R120. -/
  | arbiter (a : Arbiter)
  /-- R145. -/
  | monitor (waiting express bulk copies th tl : Nat) (flag : Bool) (map : OutSet)
  /-- R154, R150. -/
  | meter (m : Meter)
  /-- R190. -/
  | counters (c : Table Nat 15)
  /-- R187. -/
  | notices (total returned : Nat) (items : List NoticeItem) (evictSet : Nat)
  /-- R188. -/
  | cleared (removed left : Nat)
  /-- R185. -/
  | noticeConfig (kind : NoticeKind) (setting : Setting) (latched : Nat)
  /-- R177: whether the claim changed the holder. -/
  | claim (changed : Bool)
  /-- R179: whether the timer was restarted, and the pointer after the command. -/
  | keepalive (restarted : Bool) (pointer : TokenPtr)
  /-- R158. -/
  | portAdmin (before after : AdminState) (issued : Bool) (epoch : Epoch) (drained : Bool) (link : LinkState)
      (available : Bool)
  /-- R165. -/
  | portReset (linkBefore : LinkState) (leftUp : Bool) (admin : AdminState) (drained : Bool)
  /-- R58. -/
  | resync (issued : Bool) (epoch : Epoch)
  /-- R13. -/
  | linkParams (h q f : Nat)
  /-- R40, R41. -/
  | guard (g : Guard)
  /-- R78. -/
  | install (set : Fin 256) (way : Fin 4) (sel : Selector) (fanout : OutSet) (how : Placed) (root l r : Bool)
  /-- R79. -/
  | removed (wasValid : Bool)
  /-- R80. -/
  | removedWays (count : Nat) (ways : List (Fin 4))
  /-- R81. -/
  | flushed (count : Nat)
  /-- R116. -/
  | weight (applied weight allowance : Nat)
  /-- R117. -/
  | row (applied : Table Nat 24)
  /-- R115. -/
  | express (rate burst level : Nat)
  /-- R136. -/
  | holdLimit (limit : HoldLimit) (state : TxState) (timer : Option HoldLimit)
  /-- R144. -/
  | thresholds (th tl waiting : Nat) (flag : Bool)
  /-- R151, METER_START: whether it was already running, then state, count, snapshot and interval counter. -/
  | meterStart (already running : Bool) (count snapshot seen : Nat)
  /-- R151, METER_STOP. -/
  | meterStop (running : Bool) (count snapshot seen : Nat)
  /-- R152. -/
  | meterCapture (snapshot : Nat) (running : Bool)
  /-- R181. -/
  | timerPeriod (code : Period) (timer : Option Period)
  /-- R183: the ports with a credit issue, and the ports taken from DRAINING to DISABLED. -/
  | fabricReset (issued disabled : List PortId)
deriving DecidableEq, Repr

/-- A response record (R170): its status, the echoed command code, the holder and health of its mastership byte, and its
data. -/
structure Response where
  status : Status
  code : Byte
  holder : Option SupPort
  health : Health
  data : RespData
deriving DecidableEq, Repr

/-- A management port (R167, R168): the bytes of the command record shifted in so far by the transaction in progress, and
the response of its last transaction, absent where that transaction produced none or lost it. -/
structure SpiPort where
  record : List Byte
  response : Option Response
deriving DecidableEq, Repr

/-- Power-up: no transaction is in progress (R171). -/
def SpiPort.powerUp : SpiPort := { record := [], response := none }

/-- One thing for each supervisor port. -/
structure PerSup (α : Type) where
  sp0 : α
  sp1 : α
deriving DecidableEq, Repr

/-- The thing of supervisor port `sp`. -/
def PerSup.get {α : Type} (x : PerSup α) : SupPort → α
  | .sp0 => x.sp0
  | .sp1 => x.sp1

/-- `x` with the thing of supervisor port `sp` replaced. -/
def PerSup.put {α : Type} (x : PerSup α) (sp : SupPort) (a : α) : PerSup α :=
  match sp with
  | .sp0 => { x with sp0 := a }
  | .sp1 => { x with sp1 := a }

end Sys2Proof.Machine
end

