-- ==== Sys2Proof/Config.lean ====
section
/-! DEFINITION. What the manual leaves open and the model leaves free: the byte layout of the data of a response, as far as
the manual lists what the data carries and gives no layout (assumption 1). -/

namespace Sys2Proof

/-- The data bytes of an OK or DUPLICATE response whose layout the manual does not give (R170: "An OK response carries
the data that the command's entry gives"; the entries list the items and no widths). It has no body, so no statement can
depend on it. -/
opaque Config.responseLayout : Machine.RespData → List Byte

/-- The data bytes of a NOTICES_READ response up to the evict set number, to which alone R187 gives a width: the number of
pairs in the set, the number returned, and the pairs. It has no body, so no statement can depend on it. -/
opaque Config.noticesLayout : (total returned : Nat) → List Machine.NoticeItem → List Byte

end Sys2Proof
end

