-- ==== Sys2Proof/Machine/State.lean ====
section
/-! DEFINITION. The state of the XE24: every port with its blocks, the shared blocks, the two supervisors' units and
ports, and the queue of commands that wait. Its reset value is the power-up reset. -/

namespace Sys2Proof.Machine

open Sys2Proof

/-- The state of the part. `pending` is the model's own queue of the commands that wait, first in, first out. -/
structure State where
  ports : Table Port 24
  groups : Table GroupSet 256
  meters : Table Meter 8
  master : Mastership
  units : PerSup NoticeUnit
  spi : PerSup SpiPort
  pending : List Instr
deriving DecidableEq, Repr

/-- Nothing that the manual describes stops the part: every command ends in a next state. There is no fault to name. -/
inductive Fault
deriving DecidableEq, Repr

/-- A command without a meaning in this model. -/
inductive Refusal where
  /-- The command has no meaning yet (raised by `exec` alone; safe: nothing is claimed about the command). No arm of
  `exec` raises it now. -/
  | notModelled (mnemonic : String)
deriving DecidableEq, Repr

/-- The part right after power-up reset, when RESET_N has risen (R22, R43, R65, R85, R100, R121, R138, R146, R155, R166,
R176, R191). -/
def State.reset : State :=
  { ports := .fill Port.powerUp, groups := .fill GroupSet.powerUp, meters := .fill Meter.powerUp, master := .powerUp,
    units := ⟨.powerUp, .powerUp⟩, spi := ⟨.powerUp, .powerUp⟩, pending := [] }

end Sys2Proof.Machine
end

