-- ==== Sys2Proof/Machine/Framing.lean ====
section
/-! DEFINITION. The layouts of chapters 1 and 10: the check byte, cell headers as received and as sent, control words,
credit entries, command records and response records. -/

namespace Sys2Proof.Machine

open Sys2Proof

/-! ### Check byte (R2, R169) -/

/-- The sum of bytes as a number. -/
def byteSum (bs : List Byte) : Nat := (bs.map BitVec.toNat).sum

/-- The check passes when the bytes, the check byte among them, sum to 255 modulo 256 (R2, R169). -/
def checkPasses (bs : List Byte) : Bool := byteSum bs % 256 == 255

/-- The check byte that makes `bs` and it sum to 255 modulo 256 (R2). -/
def checkByte (bs : List Byte) : Byte := BitVec.ofNat 8 (255 - byteSum bs % 256)

/-- `bs` closed by its check byte. -/
def withCheck (bs : List Byte) : List Byte := bs ++ [checkByte bs]

/-- The high and the low byte of a 16-bit number, most significant first (R169). -/
def bytes16 (x : BitVec 16) : List Byte := [x.extractLsb' 8 8, x.extractLsb' 0 8]

/-- The four bytes of a 32-bit number, most significant first (R190). -/
def bytes32 (n : Nat) : List Byte :=
  [BitVec.ofNat 8 (n / 16777216), BitVec.ofNat 8 (n / 65536), BitVec.ofNat 8 (n / 256), BitVec.ofNat 8 n]

/-- Byte `i` of `bs`. The callers ask only for bytes that are there. -/
def byteAt (bs : List Byte) (i : Nat) : Byte := bs.getD i 0#8

/-! ### Classes and credit keys (R3, R6, R49) -/

/-- The class code of R3: 0 BULK, 1 EXPRESS. -/
def Class.code : Class → Nat
  | .bulk => 0
  | .express => 1

/-- The class that a class bit stands for (R3). -/
def Class.ofBit (b : Bool) : Class := if b then .express else .bulk

/-- The class bit of R3. -/
def Class.bit : Class → BitVec 1
  | .bulk => 0#1
  | .express => 1#1

/-- The number of a crosspoint queue of one input: `2 × o + c`, the number of its credit key (R6). -/
def queueNo (o : PortId) (c : Class) : Fin 48 :=
  ⟨2 * o.val + c.code, by have := o.isLt; cases c <;> simp only [Class.code] <;> omega⟩

/-- The unicast key (o, c) (R6). -/
def unicastKey (o : PortId) (c : Class) : Key := (queueNo o c).castSucc

/-- The multicast key M (R6). -/
def keyM : Key := 48

/-- Every credit key, in key order. -/
def allKeys : List Key := List.finRange 49

/-- The capacity of a key (R49): 2 for an EXPRESS key, 6 for a BULK key, 32 for M. -/
def capacity (k : Key) : Nat := if k.val = 48 then 32 else if k.val % 2 = 1 then 2 else 6

/-! ### The cell header as received (R3) -/

/-- The fields of an arriving header that classification reads or that travel with the cell (R3). -/
structure Header where
  kind : BitVec 2
  cls : Class
  epoch : Epoch
  port : Byte
  group : BitVec 12
  flow : BitVec 16
  plane : Byte
deriving DecidableEq, Repr

/-- The header fields of R3. Bits 1..0 of byte 0 and bits 7..4 of byte 2 are ignored. -/
def readHeader (data : List Byte) : Header :=
  let b0 := byteAt data 0
  { kind := b0.extractLsb' 6 2
    cls := Class.ofBit (b0.getLsbD 5)
    epoch := b0.extractLsb' 2 3
    port := byteAt data 1
    group := (byteAt data 2).extractLsb' 0 4 ++ byteAt data 3
    flow := byteAt data 4 ++ byteAt data 5
    plane := byteAt data 6 }

/-- The payload, bytes 8 to 79 (R1). -/
def readPayload (data : List Byte) : List Byte := data.drop 8

/-- R1: the cell is closed after a number of data bytes other than 80, or cut off by a new start symbol. -/
def framingFails (data : List Byte) (closed : CellEnd) : Bool :=
  match closed with
  | .startSymbol => true
  | .endOfCell => data.length != 80

/-- The condition of step 3 of R26, as R31 gives it: R1 gives the header check as failed, or bytes 0 to 7 fail the
check, or the kind is 2 or 3. -/
def headerError (data : List Byte) (closed : CellEnd) : Bool :=
  framingFails data closed || !checkPasses (data.take 8) || (readHeader data).kind.getLsbD 1

/-- Kind 1 is multicast, kind 0 unicast (R3). -/
def Header.multicast (h : Header) : Bool := h.kind.getLsbD 0

/-! ### The cell header as sent (R4) -/

/-- The rewritten header of a unicast cell of input `i` (R4). -/
def unicastHeader (i : PortId) (e : CellEntry) : List Byte :=
  withCheck ((0#2 ++ e.cls.bit ++ 0#5) :: BitVec.ofNat 8 i.val :: 0#8 :: 0#8 :: (bytes16 e.flow ++ [e.plane]))

/-- The rewritten header of a copy of an entry of input `i` (R4, R91). -/
def copyHeader (i : PortId) (e : CopyEntry) : List Byte :=
  withCheck ((1#2 ++ e.cls.bit ++ 0#5) :: BitVec.ofNat 8 i.val ::
    (bytes16 (0#4 ++ e.group) ++ (bytes16 e.flow ++ [e.plane])))

/-! ### Control words (R5 to R8) -/

/-- The fixed pattern of bytes 1 to 6 of a MARKER (R5). -/
def markerPattern : List Byte := [0x5C#8, 0x3E#8, 0x91#8, 0xA7#8, 0x0F#8, 0x62#8]

/-- The 5-bit type of a control word, bits 7..3 of byte 0 (R5). -/
def wordType (w : ControlWord) : BitVec 5 := (w.get 0).extractLsb' 3 5

/-- R8: a MARKER is good when its check passes and bytes 1 to 6 equal the pattern. -/
def goodMarker (w : ControlWord) : Bool :=
  checkPasses w.toList && (w.toList.drop 1).take 6 == markerPattern

/-- What a received control word is once its type is decoded (R5). -/
inductive WordClass where
  | marker
  | idle
  | hold
  | release
  | controlError
deriving DecidableEq, Repr

/-- R5: a MARKER by its type alone; otherwise a CONTROL_ERROR word when the check fails or the type is unknown or one
that the part alone sends, and else a valid IDLE, HOLD or RELEASE. -/
def classifyWord (w : ControlWord) : WordClass :=
  if wordType w = 1#5 then .marker
  else if !checkPasses w.toList then .controlError
  else if wordType w = 0#5 then .idle
  else if wordType w = 2#5 then .hold
  else if wordType w = 3#5 then .release
  else .controlError

/-- A credit entry in 12 bits: the key in the upper 6, the count in the lower 6 (R6). -/
def creditEntry (k n : Nat) : BitVec 12 := BitVec.ofNat 6 k ++ BitVec.ofNat 6 n

/-- The entry in place `i` of a CREDIT word: key 63 and count 0 where the word has no such entry (R6). -/
def creditSlot (entries : List (Key × Nat)) (i : Nat) : BitVec 12 :=
  match entries[i]? with
  | some (k, n) => creditEntry k.val n
  | none => creditEntry 63 0

/-- Bytes 1 to 6 of a CREDIT word: entries 0 to 3 as one 48-bit number, byte 1 most significant (R6). -/
def creditBytes (entries : List (Key × Nat)) : List Byte :=
  let x : BitVec 48 := creditSlot entries 0 ++ creditSlot entries 1 ++ creditSlot entries 2 ++ creditSlot entries 3
  [x.extractLsb' 40 8, x.extractLsb' 32 8, x.extractLsb' 24 8, x.extractLsb' 16 8, x.extractLsb' 8 8,
    x.extractLsb' 0 8]

/-- The bytes of a unit as the part sends it (R4 to R8), each header and word closed by its check byte (R2). -/
def LinkUnit.bytes : LinkUnit → List Byte
  | .idle => withCheck (0x00#8 :: List.replicate 6 0#8)
  | .marker => withCheck (0x08#8 :: markerPattern)
  | .resync e => withCheck ((5#5 ++ e) :: List.replicate 6 0#8)
  | .congestion m =>
    withCheck (0x30#8 :: m.extractLsb' 16 8 :: m.extractLsb' 8 8 :: m.extractLsb' 0 8 :: List.replicate 3 0#8)
  | .credit e entries => withCheck ((4#5 ++ e) :: creditBytes entries)
  | .cell header payload => header ++ payload

/-! ### The framing of a unit that is sent (R1) -/

/-- The symbol that starts the unit (R1). -/
def LinkUnit.startSymbol : LinkUnit → Symbol
  | .cell _ _ => .startOfCell
  | .idle | .marker | .resync _ | .congestion _ | .credit _ _ => .startOfWord

/-- The symbol that closes a whole unit (R1): a control word needs none. -/
def LinkUnit.closingSymbols : LinkUnit → List Symbol
  | .cell _ _ => [.endOfCell]
  | .idle | .marker | .resync _ | .congestion _ | .credit _ _ => []

/-- The symbols of a unit on an egress link that has ended as given (R1, R123). A unit that did not end whole had sent `sent`
of its data bytes, a number that no rule fixes. -/
def LinkUnit.symbols (u : LinkUnit) (closed : UnitEnd) (sent : Nat) : List Symbol :=
  match closed with
  | .whole => u.startSymbol :: (u.bytes.map .data ++ u.closingSymbols)
  | .abortMark => u.startSymbol :: ((u.bytes.take sent).map .data ++ [.abortMark])
  | .short => u.startSymbol :: (u.bytes.take sent).map .data

/-! ### The bits of a management port (R167) -/

/-- The bits of a byte in the order in which they are shifted, the most significant first (R167). -/
def shiftedBits (b : Byte) : List Bool :=
  [b.getLsbD 7, b.getLsbD 6, b.getLsbD 5, b.getLsbD 4, b.getLsbD 3, b.getLsbD 2, b.getLsbD 1, b.getLsbD 0]

/-- The byte whose bits are given, the most significant first (R167). -/
def byteOfBits (b7 b6 b5 b4 b3 b2 b1 b0 : Bool) : Byte :=
  BitVec.ofBool b7 ++ BitVec.ofBool b6 ++ BitVec.ofBool b5 ++ BitVec.ofBool b4 ++ BitVec.ofBool b3 ++ BitVec.ofBool b2 ++
    BitVec.ofBool b1 ++ BitVec.ofBool b0

/-- The whole bytes that a run of bits has shifted in (R167). A byte that is not whole has not been shifted in. -/
def shiftedBytes : List Bool → List Byte
  | b7 :: b6 :: b5 :: b4 :: b3 :: b2 :: b1 :: b0 :: bits => byteOfBits b7 b6 b5 b4 b3 b2 b1 b0 :: shiftedBytes bits
  | _ => []

/-- The levels of a management port's clock line and of its data-in line at one moment (R167). -/
structure SpiLevels where
  clock : Bool
  data : Bool
deriving DecidableEq, Repr

/-- The bits sampled while the lines take the levels given, one after the other: data-in as it stands at each rising edge of
the clock (R167). -/
def sampledBits : List SpiLevels → List Bool
  | [] => []
  | x :: rest =>
    match rest with
    | [] => []
    | y :: _ => if x.clock = false ∧ y.clock = true then y.data :: sampledBits rest else sampledBits rest

/-! ### Command records (R169, R173) -/

/-- The bytes of a command record: code, argument length, arguments, check byte (R169). -/
def recordOf (code : Byte) (args : List Byte) : List Byte :=
  withCheck (code :: BitVec.ofNat 8 args.length :: args)

/-- A record is complete when the byte at the place its length byte gives to the check byte has been shifted in (R167,
R169): `n + 3` bytes in all. -/
def recordComplete (record : List Byte) : Bool :=
  match record with
  | _ :: n :: _ => record.length == n.toNat + 3
  | _ => false

/-- The command record at the head of the bytes shifted in since select fell, once they hold it whole (R167, R169). The bytes
after it are no part of it. -/
def firstRecord (din : List Byte) : Option (List Byte) :=
  match din with
  | _ :: n :: _ => if n.toNat + 3 ≤ din.length then some (din.take (n.toNat + 3)) else none
  | _ => none

/-- The command codes of R173. -/
def commandCodes : List Byte :=
  [0x01#8, 0x02#8, 0x03#8, 0x04#8, 0x05#8, 0x06#8, 0x07#8, 0x08#8, 0x09#8, 0x0A#8, 0x0B#8, 0x0C#8, 0x0D#8, 0x0E#8,
    0x10#8, 0x11#8, 0x12#8, 0x20#8, 0x21#8, 0x22#8, 0x23#8, 0x24#8, 0x25#8, 0x30#8, 0x31#8, 0x32#8, 0x33#8, 0x40#8,
    0x41#8, 0x42#8, 0x43#8, 0x44#8, 0x50#8, 0x51#8, 0x52#8, 0x53#8, 0x54#8, 0x60#8, 0x61#8]

/-! ### Response records (R170) -/

/-- The status code byte (R170). -/
def Status.byte : Status → Byte
  | .ok => 0x00#8
  | .notMaster => 0x01#8
  | .alreadyHeld => 0x02#8
  | .duplicate => 0x03#8
  | .badArgument => 0x04#8
  | .meterRunning => 0x05#8
  | .unknownCommand => 0x06#8

/-- The mastership byte (R170): bits 1..0 the holder, bit 2 the health, bits 7..3 zero. -/
def masterByte (holder : Option SupPort) (health : Health) : Byte :=
  let h : BitVec 2 := match holder with
    | none => 0#2
    | some .sp0 => 1#2
    | some .sp1 => 2#2
  let a : BitVec 1 := match health with
    | .healthy => 0#1
    | .alerted => 1#1
  0#5 ++ a ++ h

/-- A flag as a data byte. -/
def flagByte (b : Bool) : Byte := if b then 1#8 else 0#8

/-- The data bytes of a response. The manual lays out BAD_ARGUMENT (R170), CLAIM (R177), KEEPALIVE (R179) and
COUNTERS_READ (R190), gives two bytes to the evict set number that ends NOTICES_READ (R187), and gives no data to the
responses without items; every other layout is left free. -/
def RespData.bytes (d : RespData) : List Byte :=
  match d with
  | .empty => []
  | .badArgument b => [b]
  | .claim changed => [flagByte changed]
  | .keepalive restarted pointer => [flagByte restarted, flagByte (pointer == .expectB)]
  | .counters c => (c.toList.map bytes32).flatten
  | .notices total returned items evictSet =>
    Config.noticesLayout total returned items ++ bytes16 (BitVec.ofNat 16 evictSet)
  | other => Config.responseLayout other

/-- The response record as it is shifted out, check byte included (R170). -/
def Response.record (r : Response) : List Byte :=
  withCheck (r.status.byte :: r.code :: masterByte r.holder r.health ::
    (bytes16 (BitVec.ofNat 16 r.data.bytes.length) ++ r.data.bytes))

/-- What the port drives on data-out once its response is ready: the start byte 0xA5 and then the response record (R167). -/
def SpiPort.driven (p : SpiPort) : List Byte :=
  match p.response with
  | some r => 0xA5#8 :: r.record
  | none => []

/-- What data-out carries in a transaction, byte by byte, while the bytes `din` are shifted in (R167); `p` is the port once the
command of the record has been taken, and `wait` the number of bytes clocked from the record's completion until the response
is ready, which no rule fixes. It is 0xFF on every byte until the record is complete, and until the response is ready; then
the start byte and the response record; and 0xFF after it until select rises. -/
def SpiPort.dataOut (p : SpiPort) (din : List Byte) (wait : Nat) : List Byte :=
  match firstRecord din with
  | none => List.replicate din.length 0xFF#8
  | some record =>
    (List.replicate (record.length + wait) 0xFF#8 ++ p.driven ++ List.replicate din.length 0xFF#8).take din.length

/-- What data-out carries in a transaction, bit by bit, while the bits `bits` are shifted in: each byte of `SpiPort.dataOut`
with its most significant bit first (R167). The byte under way is told by the bytes before it, whatever it turns out to be. -/
def SpiPort.dataOutBits (p : SpiPort) (bits : List Bool) (wait : Nat) : List Bool :=
  ((p.dataOut (shiftedBytes bits ++ [0#8]) wait).flatMap shiftedBits).take bits.length

end Sys2Proof.Machine
end

