-- ==== Sys2Proof/Machine/Operands.lean ====
section
/-! DEFINITION. The operand forms of the supervisor commands: two- and four-byte arguments, the enumerated codes of R173
and R185, and the clamps. -/

namespace Sys2Proof.Machine

open Sys2Proof

/-- A two-byte argument, most significant byte first (R169). -/
def arg16 (hi lo : Byte) : Nat := hi.toNat * 256 + lo.toNat

/-- A number clamped to at most `hi`. -/
def clampTop (hi n : Nat) : Nat := min n hi

/-- A number clamped into `lo .. hi`. -/
def clampRange (lo hi n : Nat) : Nat := max lo (min n hi)

/-- The fanout argument of GROUP_INSTALL: 32 bits, of which those of outputs 24 to 31 are dropped (R74, R173). -/
def fanoutArg (b3 b2 b1 b0 : Byte) : OutSet := (b3 ++ b2 ++ b1 ++ b0 : BitVec 32).extractLsb' 0 24

/-- Class code of GROUP_PROBE (R173). -/
def classArg (b : Byte) : Option Class :=
  match b.toNat with
  | 0 => some .bulk
  | 1 => some .express
  | _ => none

/-- Selector code of GROUP_INSTALL (R173). -/
def selectorArg (b : Byte) : Option Selector :=
  match b.toNat with
  | 0 => some .neither
  | 1 => some .bulkOnly
  | 2 => some .expressOnly
  | 3 => some .either
  | _ => none

/-- Placement code of GROUP_INSTALL (R173): a way, or AUTO (`some none`). -/
def placementArg (b : Byte) : Option (Option (Fin 4)) :=
  match b.toNat with
  | 0 => some (some 0)
  | 1 => some (some 1)
  | 2 => some (some 2)
  | 3 => some (some 3)
  | 4 => some none
  | _ => none

/-- Action code of PORT_ADMIN (R173): 0 ENABLE, 1 DRAIN, 2 DISABLE, as the state the action asks for. -/
def actionArg (b : Byte) : Option AdminState :=
  match b.toNat with
  | 0 => some .enabled
  | 1 => some .draining
  | 2 => some .disabled
  | _ => none

/-- Mode code of GUARD_SET (R173). -/
def guardModeArg (b : Byte) : Option GuardMode :=
  match b.toNat with
  | 0 => some .report
  | 1 => some .freeze
  | _ => none

/-- Tolerate code of GUARD_SET (R173). -/
def tolerateArg (b : Byte) : Option Bool :=
  match b.toNat with
  | 0 => some false
  | 1 => some true
  | _ => none

/-- Selector codes of METER_SET (R173); the input byte is read only for FROM_INPUT. The answer is the selector, or the
position of the argument refused (R150, R170: the selector is argument 3, the input argument 4). -/
def meterSelArg (sel input : Byte) : Except Nat MeterSel :=
  match sel.toNat with
  | 0 => .ok .all
  | 1 => .ok .express
  | 2 => .ok .bulk
  | 3 => .ok .multicast
  | 4 => if h : input.toNat < 24 then .ok (.fromInput ⟨input.toNat, h⟩) else .error 4
  | _ => .error 3

/-- Mode code of METER_SET (R173). -/
def meterModeArg (b : Byte) : Option MeterMode :=
  match b.toNat with
  | 0 => some .wrap
  | 1 => some .saturate
  | _ => none

/-- Code of HOLD_LIMIT (R173). -/
def holdLimitArg (b : Byte) : Option HoldLimit :=
  match b.toNat with
  | 0 => some .off
  | 1 => some .ms1
  | 2 => some .ms8
  | 3 => some .ms64
  | _ => none

/-- Code of TIMER_PERIOD (R173). -/
def periodArg (b : Byte) : Option Period :=
  match b.toNat with
  | 0 => some .ms50
  | 1 => some .ms200
  | 2 => some .s1
  | 3 => some .s4
  | _ => none

/-- Token code of KEEPALIVE (R173): the pointer value at which the token is expected. -/
def tokenArg (b : Byte) : Option TokenPtr :=
  match b.toNat with
  | 0 => some .expectA
  | 1 => some .expectB
  | _ => none

/-- The notice kind of a kind code (R184). -/
def noticeKindArg (b : Byte) : Option NoticeKind :=
  match b.toNat with
  | 0 => some .link
  | 1 => some .congestion
  | 2 => some .frozen
  | 3 => some .stall
  | 4 => some .fault
  | 5 => some .drainDone
  | 6 => some .evict
  | 7 => some .alert
  | 8 => some .change
  | 9 => some .capture
  | _ => none

/-- The edge setting of a setting code (R185). -/
def edgeArg (b : Byte) : Option EdgeSetting :=
  match b.toNat with
  | 0 => some .none
  | 1 => some .rise
  | 2 => some .fall
  | 3 => some .both
  | _ => none

/-- The enable flag of a setting code (R185). -/
def enableArg (b : Byte) : Option Bool :=
  match b.toNat with
  | 0 => some false
  | 1 => some true
  | _ => none

/-- A level kind has a level for each index; the other kinds are events (R184). -/
def NoticeKind.isLevel : NoticeKind → Bool
  | .link | .congestion | .frozen | .stall => true
  | .fault | .drainDone | .evict | .alert | .change | .capture => false

/-- The setting that NOTICE_CONFIG writes for a kind (R185): an edge setting for a level kind, an enable flag for an event
kind. -/
def settingArg (k : NoticeKind) (b : Byte) : Option Setting :=
  if k.isLevel then (edgeArg b).map .edge else (enableArg b).map .enable

/-- The code of a notice kind (R184). -/
def NoticeKind.code : NoticeKind → Nat
  | .link => 0
  | .congestion => 1
  | .frozen => 2
  | .stall => 3
  | .fault => 4
  | .drainDone => 5
  | .evict => 6
  | .alert => 7
  | .change => 8
  | .capture => 9

/-- How many indices a kind has (R184): 24 ports, 8 meters for CAPTURE, and index 0 alone for EVICT, ALERT and CHANGE. -/
def NoticeKind.indices : NoticeKind → Nat
  | .evict | .alert | .change => 1
  | .capture => 8
  | .link | .congestion | .frozen | .stall | .fault | .drainDone => 24

/-- The pairs that NOTICES_CLEAR names, from the bytes that follow its count. `pos` is the position of the first byte
(R170). The answer is the pairs, or the position of the first argument refused (R188): a kind code above 9, or an index
outside its kind's range. -/
def clearPairs (pos : Nat) : List Byte → Except Nat (List NoticePair)
  | k :: i :: rest =>
    match noticeKindArg k with
    | none => .error pos
    | some kind =>
      if i.toNat < kind.indices then
        (clearPairs (pos + 2) rest).map (⟨kind, i.toNat⟩ :: ·)
      else .error (pos + 1)
  | _ => .ok []

end Sys2Proof.Machine
end

