-- ==== Sys2Proof/WellFormed.lean ====
section
/-! DEFINITION. Which commands a wire can spell. Port numbers and word lengths are well formed by their types; what is left
is checked here. -/

namespace Sys2Proof

open Sys2Proof.Machine

/-- The argument length of a record is one byte (R169). -/
def argsFit (args : List Byte) : Bool := args.length ≤ 255

/-- The argument bytes of a PORT_ADMIN row that names `action` (R173). -/
def namesAction (action : Byte) : List Byte → Bool
  | [_, a] => a == action
  | _ => false

/-- A command that a wire can spell. A MARKER_RECEIVED carries a word of type MARKER (R5); an UNKNOWN_COMMAND carries a
complete record whose check fails or whose code names no command (R171); the arguments of a record are at most 255 bytes
(R169); and the DRAIN and DISABLE rows of PORT_ADMIN carry their own action byte, the ENABLE row neither of theirs. -/
def Instr.wf : Instr → Bool
  | .powerUpReset => true
  | .lockAcquired _ => true
  | .lockLost _ _ => true
  | .markerReceived _ word => wordType word == 1#5
  | .hold _ => true
  | .release _ => true
  | .idleReceived _ => true
  | .controlErrorWord _ => true
  | .wordDropped _ => true
  | .abortedCell _ => true
  | .cellReceptionComplete _ _ _ => true
  | .unitBoundary _ => true
  | .departure _ => true
  | .creditWordCompletion _ => true
  | .resyncCompletion _ => true
  | .congestionWordCompletion _ => true
  | .holdTimerExpiry _ => true
  | .mastershipTimerExpiry => true
  | .transactionAbandoned _ => true
  | .unknownCommand _ record =>
    recordComplete record && (!checkPasses record || !commandCodes.contains (byteAt record 0))
  | .status _ args => argsFit args
  | .portRead _ args => argsFit args
  | .queueRead _ args => argsFit args
  | .replicationRead _ args => argsFit args
  | .creditRead _ args => argsFit args
  | .groupRead _ args => argsFit args
  | .groupProbe _ args => argsFit args
  | .arbiterRead _ args => argsFit args
  | .monitorRead _ args => argsFit args
  | .meterRead _ args => argsFit args
  | .countersRead _ args => argsFit args
  | .noticesRead _ args => argsFit args
  | .noticesClear _ args => argsFit args
  | .noticeConfig _ args => argsFit args
  | .claim _ args => argsFit args
  | .relinquish _ args => argsFit args
  | .keepalive _ args => argsFit args
  | .portAdminEnable _ args => argsFit args && !namesAction 1#8 args && !namesAction 2#8 args
  | .portAdminDrain _ args => namesAction 1#8 args
  | .portAdminDisable _ args => namesAction 2#8 args
  | .portReset _ args => argsFit args
  | .portResync _ args => argsFit args
  | .linkParams _ args => argsFit args
  | .guardSet _ args => argsFit args
  | .guardResume _ args => argsFit args
  | .groupInstall _ args => argsFit args
  | .groupRemove _ args => argsFit args
  | .groupRemoveId _ args => argsFit args
  | .groupFlush _ args => argsFit args
  | .weightStage _ args => argsFit args
  | .weightStageRow _ args => argsFit args
  | .expressSet _ args => argsFit args
  | .holdLimit _ args => argsFit args
  | .thresholds _ args => argsFit args
  | .meterSet _ args => argsFit args
  | .meterStart _ args => argsFit args
  | .meterStop _ args => argsFit args
  | .meterCapture _ args => argsFit args
  | .countersClear _ args => argsFit args
  | .timerPeriod _ args => argsFit args
  | .fabricReset _ args => argsFit args

end Sys2Proof
end

