-- ==== Sys2Proof/Decode.lean ====
section
/-! DEFINITION. From what stands on the wires to commands. The table gives its rows no bits, so `decodeTableWord` names no
command. The manual does give the framing of the links (R1), the control words (R5, R8) and the command records (R169,
R173), and the decoders here read those; `recordOfInstr` is the encoder of command records. -/

namespace Sys2Proof

open Sys2Proof.Machine

/-- The table's rows carry no bits: no word spells a command. -/
def decodeTableWord (_nbits _w : Nat) : Option Instr := none

/-! ### The receiver (R1, R5) -/

/-- What the receiver has partly taken in (R18): the data bytes so far, the last first. -/
inductive Reception where
  | outside
  | inCell (bytes : List Byte)
  | inWord (bytes : List Byte)
deriving DecidableEq, Repr

/-- A unit as the receiver frames it (R1). -/
inductive Framed where
  | cell (data : List Byte) (closed : CellEnd)
  | aborted
  | word (w : ControlWord)
  | unfinishedWord
deriving DecidableEq, Repr

/-- The eight bytes of a word, given the last first. -/
def wordOfBytes (bytes : List Byte) : ControlWord := .ofFn fun i => bytes.reverse.getD i.val 0#8

/-- The unit that a framing symbol closes or interrupts (R1). `closed` is how the symbol closes a cell. -/
def interrupted (r : Reception) (closed : Option CellEnd) : Option Framed :=
  match r, closed with
  | .outside, _ => none
  | .inCell bytes, some e => some (.cell bytes.reverse e)
  | .inCell _, none => some .aborted
  | .inWord _, _ => some .unfinishedWord

/-- One symbol (R1): an end-of-cell symbol or an abort mark outside any cell is ignored, like a fill symbol. A data byte
outside any unit, such as a ninth byte after a word, and a fill symbol inside a unit are given no effect by R1, and the
model ignores them too (DESIGN CHOICE, assumption 17). -/
def frameSymbol (r : Reception) (x : Symbol) : Reception × Option Framed :=
  match x with
  | .startOfCell => (.inCell [], interrupted r (some .startSymbol))
  | .startOfWord => (.inWord [], interrupted r (some .startSymbol))
  | .endOfCell => (.outside, interrupted r (some .endOfCell))
  | .abortMark => (.outside, interrupted r none)
  | .fill => (r, none)
  | .data b =>
    match r with
    | .outside => (.outside, none)
    | .inCell bytes => (.inCell (b :: bytes), none)
    | .inWord bytes =>
      if bytes.length = 7 then (.outside, some (.word (wordOfBytes (b :: bytes)))) else (.inWord (b :: bytes), none)

/-- The units of a run of symbols, with what is left in reception (R1). -/
def frameSymbols (r : Reception) : List Symbol → Reception × List Framed
  | [] => (r, [])
  | x :: xs =>
    let (r', u) := frameSymbol r x
    let (r'', us) := frameSymbols r' xs
    (r'', u.toList ++ us)

/-- What lock lost cuts short (R18). -/
def Reception.cut : Reception → CutShort
  | .outside => .nothing
  | .inCell _ => .cell
  | .inWord _ => .word

/-- The command that a received control word is (R5, R8, R17). -/
def decodeWord (p : PortId) (w : ControlWord) : Instr :=
  match classifyWord w with
  | .marker => .markerReceived p w
  | .idle => .idleReceived p
  | .hold => .hold p
  | .release => .release p
  | .controlError => .controlErrorWord p

/-- The command that a framed unit is (R1). -/
def decodeUnit (p : PortId) : Framed → Instr
  | .cell data closed => .cellReceptionComplete p data closed
  | .aborted => .abortedCell p
  | .word w => decodeWord p w
  | .unfinishedWord => .wordDropped p

/-! ### Command records (R169, R171, R173) -/

/-- The command of a code (R173), with its argument bytes. The three actions of PORT_ADMIN are rows of their own: a record
of code 0x20 that names no action, or has another length than two bytes, stands with ENABLE, where it is refused. -/
def commandOf (sp : SupPort) (code : Byte) (args : List Byte) : Option Instr :=
  match code.toNat with
  | 0x01 => some (.status sp args)
  | 0x02 => some (.portRead sp args)
  | 0x03 => some (.queueRead sp args)
  | 0x04 => some (.replicationRead sp args)
  | 0x05 => some (.creditRead sp args)
  | 0x06 => some (.groupRead sp args)
  | 0x07 => some (.groupProbe sp args)
  | 0x08 => some (.arbiterRead sp args)
  | 0x09 => some (.monitorRead sp args)
  | 0x0A => some (.meterRead sp args)
  | 0x0B => some (.countersRead sp args)
  | 0x0C => some (.noticesRead sp args)
  | 0x0D => some (.noticesClear sp args)
  | 0x0E => some (.noticeConfig sp args)
  | 0x10 => some (.claim sp args)
  | 0x11 => some (.relinquish sp args)
  | 0x12 => some (.keepalive sp args)
  | 0x20 =>
    match args with
    | [_, 1#8] => some (.portAdminDrain sp args)
    | [_, 2#8] => some (.portAdminDisable sp args)
    | _ => some (.portAdminEnable sp args)
  | 0x21 => some (.portReset sp args)
  | 0x22 => some (.portResync sp args)
  | 0x23 => some (.linkParams sp args)
  | 0x24 => some (.guardSet sp args)
  | 0x25 => some (.guardResume sp args)
  | 0x30 => some (.groupInstall sp args)
  | 0x31 => some (.groupRemove sp args)
  | 0x32 => some (.groupRemoveId sp args)
  | 0x33 => some (.groupFlush sp args)
  | 0x40 => some (.weightStage sp args)
  | 0x41 => some (.weightStageRow sp args)
  | 0x42 => some (.expressSet sp args)
  | 0x43 => some (.holdLimit sp args)
  | 0x44 => some (.thresholds sp args)
  | 0x50 => some (.meterSet sp args)
  | 0x51 => some (.meterStart sp args)
  | 0x52 => some (.meterStop sp args)
  | 0x53 => some (.meterCapture sp args)
  | 0x54 => some (.countersClear sp args)
  | 0x60 => some (.timerPeriod sp args)
  | 0x61 => some (.fabricReset sp args)
  | _ => none

/-- The argument bytes of a complete record (R169). -/
def recordArgs (record : List Byte) : List Byte := (record.drop 2).dropLast

/-- The command that the bytes shifted in on port `sp` since select fell make (R167, R171): none while the record is not
complete, and the bytes after the complete record are ignored; a record whose check fails or whose code names no command
is UNKNOWN_COMMAND. -/
def decodeRecord (sp : SupPort) (din : List Byte) : Option Instr :=
  (firstRecord din).map fun record =>
    if checkPasses record then
      (commandOf sp (byteAt record 0) (recordArgs record)).getD (.unknownCommand sp record)
    else .unknownCommand sp record

/-- The command that the lines of port `sp` bring in while its select is low (R167): data-in is sampled at the rising edges of
the clock, and its bits make bytes, the most significant bit first. -/
def decodeLines (sp : SupPort) (lines : List SpiLevels) : Option Instr :=
  decodeRecord sp (shiftedBytes (sampledBits lines))

/-- The port and the record of a supervisor command (R169, R173); the events of the links, the transmitters and the timers
have none. -/
def recordOfInstr : Instr → Option (SupPort × List Byte)
  | .powerUpReset => none
  | .lockAcquired _ => none
  | .lockLost _ _ => none
  | .markerReceived _ _ => none
  | .hold _ => none
  | .release _ => none
  | .idleReceived _ => none
  | .controlErrorWord _ => none
  | .wordDropped _ => none
  | .abortedCell _ => none
  | .cellReceptionComplete _ _ _ => none
  | .unitBoundary _ => none
  | .departure _ => none
  | .creditWordCompletion _ => none
  | .resyncCompletion _ => none
  | .congestionWordCompletion _ => none
  | .holdTimerExpiry _ => none
  | .mastershipTimerExpiry => none
  | .transactionAbandoned _ => none
  | .unknownCommand sp record => some (sp, record)
  | .status sp args => some (sp, recordOf 0x01#8 args)
  | .portRead sp args => some (sp, recordOf 0x02#8 args)
  | .queueRead sp args => some (sp, recordOf 0x03#8 args)
  | .replicationRead sp args => some (sp, recordOf 0x04#8 args)
  | .creditRead sp args => some (sp, recordOf 0x05#8 args)
  | .groupRead sp args => some (sp, recordOf 0x06#8 args)
  | .groupProbe sp args => some (sp, recordOf 0x07#8 args)
  | .arbiterRead sp args => some (sp, recordOf 0x08#8 args)
  | .monitorRead sp args => some (sp, recordOf 0x09#8 args)
  | .meterRead sp args => some (sp, recordOf 0x0A#8 args)
  | .countersRead sp args => some (sp, recordOf 0x0B#8 args)
  | .noticesRead sp args => some (sp, recordOf 0x0C#8 args)
  | .noticesClear sp args => some (sp, recordOf 0x0D#8 args)
  | .noticeConfig sp args => some (sp, recordOf 0x0E#8 args)
  | .claim sp args => some (sp, recordOf 0x10#8 args)
  | .relinquish sp args => some (sp, recordOf 0x11#8 args)
  | .keepalive sp args => some (sp, recordOf 0x12#8 args)
  | .portAdminEnable sp args => some (sp, recordOf 0x20#8 args)
  | .portAdminDrain sp args => some (sp, recordOf 0x20#8 args)
  | .portAdminDisable sp args => some (sp, recordOf 0x20#8 args)
  | .portReset sp args => some (sp, recordOf 0x21#8 args)
  | .portResync sp args => some (sp, recordOf 0x22#8 args)
  | .linkParams sp args => some (sp, recordOf 0x23#8 args)
  | .guardSet sp args => some (sp, recordOf 0x24#8 args)
  | .guardResume sp args => some (sp, recordOf 0x25#8 args)
  | .groupInstall sp args => some (sp, recordOf 0x30#8 args)
  | .groupRemove sp args => some (sp, recordOf 0x31#8 args)
  | .groupRemoveId sp args => some (sp, recordOf 0x32#8 args)
  | .groupFlush sp args => some (sp, recordOf 0x33#8 args)
  | .weightStage sp args => some (sp, recordOf 0x40#8 args)
  | .weightStageRow sp args => some (sp, recordOf 0x41#8 args)
  | .expressSet sp args => some (sp, recordOf 0x42#8 args)
  | .holdLimit sp args => some (sp, recordOf 0x43#8 args)
  | .thresholds sp args => some (sp, recordOf 0x44#8 args)
  | .meterSet sp args => some (sp, recordOf 0x50#8 args)
  | .meterStart sp args => some (sp, recordOf 0x51#8 args)
  | .meterStop sp args => some (sp, recordOf 0x52#8 args)
  | .meterCapture sp args => some (sp, recordOf 0x53#8 args)
  | .countersClear sp args => some (sp, recordOf 0x54#8 args)
  | .timerPeriod sp args => some (sp, recordOf 0x60#8 args)
  | .fabricReset sp args => some (sp, recordOf 0x61#8 args)

end Sys2Proof
end

