-- ==== Sys2Proof/Machine/Flags.lean ====
section
/-! DEFINITION. What is read off the state and stored nowhere: an available output, an UP and ENABLED port, occupancy, the
levels of the notices, the congestion map, selector matches, the victim of a set; and how the congestion flag is
evaluated. -/

namespace Sys2Proof.Machine

open Sys2Proof

/-- Everything the part holds for port `p`. -/
def State.port (s : State) (p : PortId) : Port := s.ports.get p

/-! ### Ports -/

/-- The port is UP (R10). -/
def Port.isUp (p : Port) : Bool := p.rx.link == .up

/-- The port is UP and ENABLED: its account lends credits (R49). -/
def Port.lends (p : Port) : Bool := p.rx.link == .up && p.admin == .enabled

/-- An output is available when its link is UP, its administration state is ENABLED or DRAINING, and its transmitter is
not STALLED (R157). -/
def Port.available (p : Port) : Bool :=
  p.rx.link == .up && (p.admin == .enabled || p.admin == .draining) && p.tx.state != .stalled

/-- The set of outputs available at this moment (R29, R157). -/
def State.availableSet (s : State) : OutSet := OutSet.ofPred fun o => (s.port o).available

/-- The receiver delivers a unit to a block that takes it only in UP (R9, R17). -/
def Port.delivers (p : Port) : Bool := p.rx.locked && p.rx.link == .up

/-- The queue X(p, o, c) of this port (R44). -/
def Port.queue (p : Port) (o : PortId) (c : Class) : List CellEntry := p.queues.get (queueNo o c)

/-- Occupancy of a credit key (R49): the entries of its crosspoint queue, or of the replication queue for M. -/
def Port.occupancy (p : Port) (k : Key) : Nat :=
  if h : k.val < 48 then (p.queues.get ⟨k.val, h⟩).length else p.copies.length

/-- Input p holds no cell (R162): all 48 crosspoint queues and the replication queue are empty. -/
def Port.holdsNothing (p : Port) : Bool := p.queues.toList.all List.isEmpty && p.copies.isEmpty

/-- The entry of this input's replication queue whose copy toward `o` is in service (R87). -/
def Port.servedCopy (p : Port) (o : PortId) : Option CopyEntry := p.copies.find? fun e => e.inService.has o

/-- The multicast candidate of this input for `o`: the earliest entry that holds `o` in its remaining set and not in its
in-service set (R90). -/
def CopyEntry.waitsFor (e : CopyEntry) (o : PortId) : Bool := e.remaining.has o && !e.inService.has o

/-- The multicast candidate of this input for `o` (R90). -/
def Port.candidate (p : Port) (o : PortId) : Option CopyEntry := p.copies.find? fun e => e.waitsFor o

/-! ### Occupancy monitor (R139, R141) -/

/-- The congestion flag after an evaluation (R141). -/
def Monitor.evaluated (m : Monitor) : Bool :=
  if m.th = 0 then false
  else if m.th ≤ m.waiting then true
  else if m.waiting ≤ m.tl then false
  else m.flag

/-- The congestion map: the flags of all outputs (R7). -/
def State.congestionMap (s : State) : OutSet := OutSet.ofPred fun o => (s.port o).monitor.flag

/-- The express or bulk cells that wait toward `o` (R139, R145). -/
def State.cellsToward (s : State) (o : PortId) (c : Class) : Nat :=
  (allPorts.map fun i => ((s.port i).queue o c).length).sum

/-- The replication entries whose remaining set holds `o` (R139, R145). -/
def State.copiesToward (s : State) (o : PortId) : Nat :=
  (allPorts.map fun i => ((s.port i).copies.countP fun e => e.remaining.has o)).sum

/-! ### Levels of the notices (R184) -/

/-- The level of a level kind for an index as it stands, and low for an event kind (R184, R187). -/
def State.noticeLevel (s : State) (k : NoticeKind) (index : Nat) : Bool :=
  if h : index < 24 then
    let p := s.port ⟨index, h⟩
    match k with
    | .link => p.rx.link == .up
    | .congestion => p.monitor.flag
    | .frozen => p.guard.state == .frozen
    | .stall => p.tx.state == .stalled
    | .fault | .drainDone | .evict | .alert | .change | .capture => false
  else false

/-! ### Group table (R66 to R71) -/

/-- The set of a group id: `g mod 256` (R66). -/
def groupSet (g : Nat) : Fin 256 := ⟨g % 256, Nat.mod_lt _ (by decide)⟩

/-- The tag of a group id: `g div 256` (R66). -/
def groupTag (g : Nat) : Nat := g / 256

/-- A selector matches a class (R68). -/
def Selector.covers : Selector → Class → Bool
  | .neither, _ => false
  | .bulkOnly, .bulk => true
  | .bulkOnly, .express => false
  | .expressOnly, .bulk => false
  | .expressOnly, .express => true
  | .either, _ => true

/-- Two selectors overlap when some class is matched by both (R68). -/
def Selector.overlaps (a b : Selector) : Bool :=
  (a.covers .bulk && b.covers .bulk) || (a.covers .express && b.covers .express)

/-- The four ways of a set, lowest first. -/
def allWays : List (Fin 4) := [0, 1, 2, 3]

/-- The way a lookup hits: valid, with the tag, and a selector that matches the class (R71). -/
def GroupSet.hit (g : GroupSet) (tag : Nat) (c : Class) : Option (Fin 4) :=
  allWays.find? fun w => (g.ways.get w).valid && (g.ways.get w).tag == tag && (g.ways.get w).sel.covers c

/-- A valid way that holds the tag with a selector that overlaps (R75, R76). -/
def GroupSet.conflicts (g : GroupSet) (tag : Nat) (sel : Selector) (w : Fin 4) : Bool :=
  (g.ways.get w).valid && (g.ways.get w).tag == tag && (g.ways.get w).sel.overlaps sel

/-- The victim of a set: the way reached from the root (R70). -/
def GroupSet.victim (g : GroupSet) : Fin 4 :=
  if g.root then (if g.r then 3 else 2) else (if g.l then 1 else 0)

/-- The tree bits of a set with their victim (R82, R83). -/
def GroupSet.tree (g : GroupSet) : TreeData := { root := g.root, l := g.l, r := g.r, victim := g.victim }

/-- The tree after a use of way `w` (R69). -/
def GroupSet.touch (g : GroupSet) (w : Fin 4) : GroupSet :=
  match w with
  | 0 => { g with root := true, l := true }
  | 1 => { g with root := true, l := false }
  | 2 => { g with root := false, r := true }
  | 3 => { g with root := false, r := false }

/-! ### Meters (R148) -/

/-- A departure as a meter sees it: the class and source input of its egress header, and whether it is a copy (R148). -/
structure Departed where
  input : PortId
  cls : Class
  copy : Bool
deriving DecidableEq, Repr

/-- The selector matches the departure (R148). -/
def MeterSel.covers (m : MeterSel) (d : Departed) : Bool :=
  match m with
  | .all => true
  | .express => d.cls == .express
  | .bulk => d.cls == .bulk
  | .multicast => d.copy
  | .fromInput i => d.input == i

/-! ### Notices (R184, R186) -/

/-- The pair of a notice (R184); the index of EVICT, ALERT and CHANGE is 0. -/
def Notice.pair : Notice → NoticePair
  | .link p _ => ⟨.link, p.val⟩
  | .congestion o _ => ⟨.congestion, o.val⟩
  | .frozen p _ => ⟨.frozen, p.val⟩
  | .stall o _ => ⟨.stall, o.val⟩
  | .fault p => ⟨.fault, p.val⟩
  | .drainDone p => ⟨.drainDone, p.val⟩
  | .evict _ => ⟨.evict, 0⟩
  | .alert => ⟨.alert, 0⟩
  | .change => ⟨.change, 0⟩
  | .capture m => ⟨.capture, m.val⟩

/-- An edge setting takes an edge of the direction given (R186). -/
def EdgeSetting.takes (e : EdgeSetting) (rising : Bool) : Bool :=
  match e with
  | .none => false
  | .rise => rising
  | .fall => !rising
  | .both => true

/-- The notice matches the unit's configuration (R186). -/
def NoticeUnit.takes (u : NoticeUnit) : Notice → Bool
  | .link _ rising => u.link.takes rising
  | .congestion _ rising => u.congestion.takes rising
  | .frozen _ rising => u.frozen.takes rising
  | .stall _ rising => u.stall.takes rising
  | .fault _ => u.fault
  | .drainDone _ => u.drainDone
  | .evict _ => u.evict
  | .alert => u.alert
  | .change => u.change
  | .capture _ => u.capture

end Sys2Proof.Machine
end

