-- ==== Sys2Proof/Machine/Arbiter.lean ====
section
/-! DEFINITION. The output arbiter's choice (chapter 6): which input and which cell or copy the next pick of an output
names, and the arbiter state the pick leaves. The choice reads the state and changes nothing. -/

namespace Sys2Proof.Machine

open Sys2Proof

/-- The order of a scan (R106, R109, R111): from the input after the pointer upward, wrapping from 23 to 0, ending at the
pointer itself. -/
def scanFrom (ptr : PortId) : List PortId := allPorts.map fun k => ptr + 1 + k

/-- X(i, o, EXPRESS) is not empty. -/
def State.expressWaits (s : State) (o i : PortId) : Bool := !((s.port i).queue o .express).isEmpty

/-- X(i, o, BULK) is not empty. -/
def State.bulkWaits (s : State) (o i : PortId) : Bool := !((s.port i).queue o .bulk).isEmpty

/-- Input `i` has a multicast candidate for `o` (R90). -/
def State.copyWaits (s : State) (o i : PortId) : Bool := ((s.port i).candidate o).isSome

/-- Input `i` has a candidate for output `o` (R103). -/
def State.eligible (s : State) (o i : PortId) : Bool := s.expressWaits o i || s.bulkWaits o i || s.copyWaits o i

/-- What a pick takes from its input (R102). -/
inductive Offer where
  | express
  | bulk
  | copy
deriving DecidableEq, Repr

/-- The candidate cell of an input with the alternation flag given (R107). -/
def State.offer (s : State) (o i : PortId) (turn : Turn) : Offer :=
  if s.expressWaits o i then .express
  else if s.bulkWaits o i && s.copyWaits o i then
    match turn with
    | .unicast => .bulk
    | .multicast => .copy
  else if s.bulkWaits o i then .bulk
  else .copy

/-- The alternation flag after a bulk-round or spare pick (R108). -/
def Turn.after (t : Turn) : Offer → Turn
  | .express => t
  | .bulk => .multicast
  | .copy => .unicast

/-- A pick: the input, what is taken from it, and the arbiter afterwards. -/
structure Pick where
  input : PortId
  offer : Offer
  arbiter : Arbiter
deriving DecidableEq, Repr

/-- The express phase (R105, R106): it picks when the level is at least 256 and an express queue toward `o` waits. -/
def State.expressPick (s : State) (o : PortId) (a : Arbiter) : Option Pick :=
  if 256 ≤ a.level then
    ((scanFrom a.expressPtr).find? (s.expressWaits o)).map fun i =>
      { input := i, offer := .express, arbiter := { a with expressPtr := i, level := a.level - 256 } }
  else none

/-- The scan of a bulk-round pick (R109): the first eligible input with allowance. -/
def State.allowancePick (s : State) (o : PortId) (a : Arbiter) : Option Pick :=
  ((scanFrom a.bulkPtr).find? fun i => s.eligible o i && 0 < a.allowance.get i).map fun i =>
    let f := s.offer o i (a.turn.get i)
    { input := i, offer := f
      arbiter := { a with
        allowance := a.allowance.put i (a.allowance.get i - 1), bulkPtr := i
        turn := a.turn.put i ((a.turn.get i).after f) } }

/-- Spare service (R111): the first eligible input after the spare pointer. -/
def State.sparePick (s : State) (o : PortId) (a : Arbiter) : Option Pick :=
  ((scanFrom a.sparePtr).find? (s.eligible o)).map fun i =>
    let f := s.offer o i (a.turn.get i)
    { input := i, offer := f
      arbiter := { a with sparePtr := i, turn := a.turn.put i ((a.turn.get i).after f) } }

/-- A reload (R110): the staged weights become current, every allowance is set to its new weight, and the round count
rises by 1, wrapping. -/
def Arbiter.reload (a : Arbiter) : Arbiter :=
  { a with weight := a.staged, allowance := a.staged, rounds := a.rounds + 1#32 }

/-- R110: some eligible input has a non-zero current or pending weight. -/
def State.reloadDue (s : State) (o : PortId) (a : Arbiter) : Bool :=
  allPorts.any fun i => s.eligible o i && (a.weight.get i != 0 || a.staged.get i != 0)

/-- The bulk round (R109), with its reload (R110) and spare service (R111). -/
def State.bulkPick (s : State) (o : PortId) (a : Arbiter) : Option Pick :=
  match s.allowancePick o a with
  | some k => some k
  | none =>
    if s.reloadDue o a then
      match s.allowancePick o a.reload with
      | some k => some k
      | none => s.sparePick o a.reload
    else s.sparePick o a

/-- The next pick of output `o` (R105): by the express phase where it applies, otherwise by the bulk round; none where no
input has a candidate. -/
def State.nextPick (s : State) (o : PortId) : Option Pick :=
  match s.expressPick o (s.port o).arbiter with
  | some k => some k
  | none => s.bulkPick o (s.port o).arbiter

end Sys2Proof.Machine
end

