-- ==== Sys2Proof/Machine/Ops.lean ====
section
/-! DEFINITION. The shared operations. A command is taken as one event (00_scope, Events): the operations work on an
event, which is the state as it stands so far together with the notices raised and the places freed in the event, and
`Event.finish` closes the event by the orders R51 and R186 give. -/

namespace Sys2Proof.Machine

open Sys2Proof

/-- A command being taken: the state so far, the notices raised so far (R186), and the credit keys under which a place was
freed so far (R51). -/
structure Event extends State where
  raised : List Notice
  freed : List (PortId × Key)
deriving DecidableEq, Repr

namespace Event

/-- The event at its start. -/
def start (s : State) : Event := { toState := s, raised := [], freed := [] }

/-- Port `p` changed by `f`. -/
def modPort (c : Event) (p : PortId) (f : Port → Port) : Event :=
  { c with ports := c.ports.put p (f (c.ports.get p)) }

/-- A notice goes to both notice units at the end of the event (R184, R186). -/
def raise (c : Event) (n : Notice) : Event := { c with raised := c.raised ++ [n] }

/-- A notice that is raised under a condition. -/
def raiseIf (c : Event) (b : Bool) (n : Notice) : Event := if b then c.raise n else c

end Event

/-! ### Port counters (R189) -/

/-- Counter `k` of a port raised by `n`, saturating at 4,294,967,295 (R189). -/
def Port.count (p : Port) (k : Counter) (n : Nat) : Port :=
  { p with counters := p.counters.put k.index (min (p.counters.get k.index + n) 4294967295) }

/-- Counter `k` of port `p` rises by 1. -/
def Event.count (c : Event) (p : PortId) (k : Counter) : Event := c.modPort p fun x => x.count k 1

/-! ### The credit account -/

/-- The freed-slot rule (R50) for `n` places of input `i` under key `k`: while the port is UP and ENABLED the pending
count rises and the key is noted for the credit return list; otherwise the places add to no count. -/
def Event.free (c : Event) (i : PortId) (k : Key) (n : Nat) : Event :=
  if (c.port i).lends && n != 0 then
    { c.modPort i fun x =>
        { x with account := { x.account with pending := x.account.pending.put k (x.account.pending.get k + n) } } with
      freed := c.freed ++ [(i, k)] }
  else c

/-- The void mark is set on a credit word in flight (R54). -/
def Account.voided (a : Account) : Option CreditWord := a.inFlight.map fun w => { w with void := true }

/-- Withdrawal of the credits of a port (R59). -/
def Port.withdraw (p : Port) : Port :=
  { p with account :=
      { outstanding := .fill 0, pending := .fill 0, returnList := [], resyncPending := false
        inFlight := p.account.voided } }

/-- The free space under each key (R55, step 3). -/
def Port.freeSpace (p : Port) : Table Nat 49 := .ofFn fun k => capacity k - p.occupancy k

/-- A credit issue (R55): the epoch advances, every outstanding count becomes 0, the return list is rebuilt in key order
from the free space, a RESYNC carrying the new epoch is made pending, and a credit word in flight is void. -/
def Port.issue (p : Port) : Port :=
  { p with
    epoch := p.epoch + 1#3
    account :=
      { outstanding := .fill 0, pending := p.freeSpace
        returnList := allKeys.filter fun k => p.freeSpace.get k != 0
        resyncPending := true, inFlight := p.account.voided }
    tx := { p.tx with resyncWord := some (p.epoch + 1#3) } }

/-- A key joins the end of a credit return list if it is not on it (R50, R51). -/
def joinKey (l : List Key) (k : Key) : List Key := if k ∈ l then l else l ++ [k]

/-- The freed keys put in key order (R51), those of equal number in the order in which they were freed. -/
def insertFreed (x : PortId × Key) : List (PortId × Key) → List (PortId × Key)
  | [] => [x]
  | y :: ys => if x.2 ≤ y.2 then x :: y :: ys else y :: insertFreed x ys

/-- R51: keys whose pending counts rise in the same event join the end of the list in key order. -/
def sortFreed (l : List (PortId × Key)) : List (PortId × Key) := l.foldr insertFreed []

/-- The keys freed in the event join their ports' return lists (R51). -/
def Event.joinFreed (c : Event) : Event :=
  (sortFreed c.freed).foldl
    (fun c x => c.modPort x.1 fun p =>
      { p with account := { p.account with returnList := joinKey p.account.returnList x.2 } }) c

/-! ### Notices (R184, R186) -/

/-- A notice reaches a notice unit (R186). -/
def NoticeUnit.latch (u : NoticeUnit) (n : Notice) : NoticeUnit :=
  if u.takes n then
    { u with
      latched := if n.pair ∈ u.latched then u.latched else u.latched ++ [n.pair]
      evictSet := match n with
        | .evict set => set.val
        | _ => u.evictSet
      alarm := true }
  else u

/-- The order in which pairs raised in one event join: by kind code, then by index (R186). -/
def noticeBefore (a b : Notice) : Bool :=
  a.pair.kind.code < b.pair.kind.code || (a.pair.kind.code == b.pair.kind.code && a.pair.index ≤ b.pair.index)

/-- A notice put into its place in that order. -/
def insertNotice (n : Notice) : List Notice → List Notice
  | [] => [n]
  | m :: ms => if noticeBefore n m then n :: m :: ms else m :: insertNotice n ms

/-- The notices of an event in the order of R186. -/
def sortNotices (l : List Notice) : List Notice := l.foldr insertNotice []

/-- Both notice units take the notices of the event (R184, R186). -/
def Event.latchAll (c : Event) : State :=
  { c.toState with
    units :=
      { sp0 := (sortNotices c.raised).foldl NoticeUnit.latch c.units.sp0
        sp1 := (sortNotices c.raised).foldl NoticeUnit.latch c.units.sp1 } }

/-- The event is closed: freed keys join their lists, raised notices are latched. -/
def Event.finish (c : Event) : State := c.joinFreed.latchAll

/-! ### Occupancy monitor (R140 to R142) -/

/-- R142, R130: a congestion update becomes pending on a transmitter whose port is UP and not DISABLED. -/
def Port.oweCongestion (p : Port) : Port :=
  if p.isUp && p.admin != .disabled then { p with tx := { p.tx with congestionUpdate := true } } else p

/-- The congestion flag of `o` is evaluated (R141); a change raises the edge of its level and owes every eligible line card
the map (R142). -/
def Event.evaluate (c : Event) (o : PortId) : Event :=
  let m := (c.port o).monitor
  if m.evaluated = m.flag then c
  else
    ((({ c with ports := c.ports.map Port.oweCongestion } : Event).modPort o fun x =>
      { x with monitor := { x.monitor with flag := m.evaluated } }).raise (.congestion o m.evaluated))

/-- The waiting count of `o` changes, and the flag is evaluated in the same event (R140, R141). -/
def Event.setWaiting (c : Event) (o : PortId) (n : Nat) : Event :=
  (c.modPort o fun x => { x with monitor := { x.monitor with waiting := n } }).evaluate o

/-! ### The egress transmitter -/

/-- The unit on the link ends, closed as given (R1, R128): a MARKER sets the spacing counter to 0, any other unit raises it
by 1, and the end of a cell, completed or closed by an abort mark, sets the word-owed mark (R127). -/
def Transmitter.endUnit (t : Transmitter) (closed : UnitEnd) : Transmitter :=
  match t.onLink with
  | none => t
  | some .marker => { t with onLink := none, closed := some closed, spacing := 0 }
  | some (.cell _ _) => { t with onLink := none, closed := some closed, spacing := t.spacing + 1, wordOwed := true }
  | some _ => { t with onLink := none, closed := some closed, spacing := t.spacing + 1 }

/-- A cell that has started on the link and not ended is closed with an abort mark (R126, R132, R137). A word in
transmission goes on. -/
def Transmitter.abortCell (t : Transmitter) : Transmitter :=
  match t.onLink with
  | some (.cell _ _) => t.endUnit .abortMark
  | _ => t

/-- The unit in transmission is cut off as the link leaves UP (R123): a cell is closed with an abort mark, and a control word
ends short. -/
def Transmitter.cutOff (t : Transmitter) : Transmitter :=
  match t.onLink with
  | some (.cell _ _) => t.endUnit .abortMark
  | _ => t.endUnit .short

/-- The cell in service is dropped because the output became unavailable (R126): SENDING goes to IDLE, HELD stays HELD
without a cell, and DOWN and STALLED stay. -/
def Transmitter.dropCell (t : Transmitter) : Transmitter :=
  if t.service.isSome then
    { t.abortCell with
      service := none
      state := match t.state with
        | .sending => .idle
        | other => other }
  else t

/-- The transmitter as the link leaves UP (R123): the unit in transmission is cut off, the cell in service dropped, the
hold timer stopped without expiry, the congestion update and the pending RESYNC cleared. -/
def Transmitter.linkDown (t : Transmitter) : Transmitter :=
  { t.cutOff with
    state := .down, service := none, timer := none, congestionUpdate := false, resyncWord := none }

/-- The transmitter as the link enters UP (R123). -/
def Transmitter.linkUp (t : Transmitter) : Transmitter := { t with state := .idle, congestionUpdate := true }

/-! ### Entries and queues -/

/-- An entry loses output `o` from both of its sets (R93, R95). -/
def CopyEntry.lose (e : CopyEntry) (o : PortId) : CopyEntry :=
  { e with remaining := e.remaining.drop o, inService := e.inService.drop o }

/-- The list after a prune of `o` (R95, R94): every entry loses `o`, and an entry whose remaining set becomes empty
leaves. An entry that did not hold `o` is untouched. -/
def pruneCopies (o : PortId) (l : List CopyEntry) : List CopyEntry :=
  (l.map fun e => if e.remaining.has o then e.lose o else e).filter fun e => e.remaining != OutSet.empty

/-- The list after the copy in service toward `o` has departed (R93, R94). -/
def departCopy (o : PortId) : List CopyEntry → List CopyEntry
  | [] => []
  | e :: es =>
    if e.inService.has o then
      if (e.lose o).remaining = OutSet.empty then es else e.lose o :: es
    else e :: departCopy o es

/-- The list after output `o` has picked its candidate (R91). -/
def pickCopy (o : PortId) : List CopyEntry → List CopyEntry
  | [] => []
  | e :: es => if e.waitsFor o then { e with inService := e.inService.add o } :: es else e :: pickCopy o es

/-- The restart flag of the head is set (R46, R132). -/
def markRestart : List CellEntry → List CellEntry
  | [] => []
  | e :: es => { e with restart := true } :: es

/-- Queue X(p, o, c) of this port replaced. -/
def Port.putQueue (p : Port) (o : PortId) (c : Class) (l : List CellEntry) : Port :=
  { p with queues := p.queues.put (queueNo o c) l }

/-- Both queues toward `o` emptied (R61) and `o` pruned from every entry (R95). -/
def Port.loseOutput (o : PortId) (p : Port) : Port :=
  { (p.putQueue o .express []).putQueue o .bulk [] with copies := pruneCopies o p.copies }

/-- The places that a flush and prune of `o` free to this input under key M: the entries that leave (R94, R95). -/
def Port.leavingCopies (o : PortId) (p : Port) : Nat := p.copies.length - (pruneCopies o p.copies).length

/-- This input loses a place when output `o` becomes unavailable (R61, R94). -/
def Port.losesPlace (o : PortId) (p : Port) : Bool :=
  !(p.queue o .express).isEmpty || !(p.queue o .bulk).isEmpty || p.leavingCopies o != 0

/-- The inputs that lose a place when output `o` becomes unavailable. -/
def State.losers (s : State) (o : PortId) : List PortId := allPorts.filter fun i => (s.port i).losesPlace o

/-! ### An output becomes unavailable (R61, R95, R126, R157) and drains that complete by it (R162) -/

/-- The places of input `i` that a flush and prune of `o` free, `p` being the input before it (R61, R95). -/
def Event.freeLost (o : PortId) (c : Event) (i : PortId) (p : Port) : Event :=
  ((c.free i (unicastKey o .bulk) (p.queue o .bulk).length).free i (unicastKey o .express)
    (p.queue o .express).length).free i keyM (p.leavingCopies o)

/-- The cells and copies that output `o` is owed (R61, R95). -/
def State.owed (s : State) (o : PortId) : Nat :=
  s.cellsToward o .express + s.cellsToward o .bulk + s.copiesToward o

/-- Output `o` has become unavailable: every queue toward it is flushed and every entry loses it, each cell and copy
counted FLUSHED on `o` and each place freed to its input; its transmitter drops its cell in service; and its waiting
count falls by the total (R61, R95, R126, R140). Where it already was unavailable, nothing is found. -/
def Event.closeOutput (c : Event) (o : PortId) : Event :=
  let lost : Event := { c with ports := c.ports.map (Port.loseOutput o) }
  let freed := allPorts.foldl (fun e i => e.freeLost o i (c.port i)) lost
  let counted := freed.modPort o fun x => { x.count .flushed (c.owed o) with tx := x.tx.dropCell }
  counted.setWaiting o ((c.port o).monitor.waiting - c.owed o)

/-- The drain of `i` is over: the port is DRAINING and its input holds no cell (R162). -/
def State.drained (s : State) (i : PortId) : Bool := (s.port i).admin == .draining && (s.port i).holdsNothing

/-- A drain completes (R162): the state becomes DISABLED, the withdrawal it brings moves nothing, and DRAIN_DONE is
raised. -/
def Event.endDrain (c : Event) (i : PortId) : Event :=
  (c.modPort i fun x => { x.withdraw with admin := .disabled }).raise (.drainDone i)

/-- The drain checks of the inputs that lost a place in this event (R162). A drain that completes makes its output
unavailable, and the flush there may complete a further drain. `fuel` bounds the completions, of which there are at most
one for each port.

Where several are due, no rule says which completes first. The model takes them in the order of `losers`: the inputs of one
flush by port number, and those that a drain's own flush adds after them. So an UP port whose drain is later in that order is
still DRAINING as the flag of an earlier one's output changes, and gets the congestion update (DESIGN CHOICE, assumption
10). -/
def Event.drainChecks : Nat → List PortId → Event → Event
  | 0, _, c => c
  | fuel + 1, losers, c =>
    match losers.find? c.drained with
    | none => c
    | some i =>
      let e := c.endDrain i
      drainChecks fuel (losers ++ e.losers i) (e.closeOutput i)

/-- Output `o` becomes unavailable, with the drain checks of the inputs that lose a place by it (R157, R162).

The congestion flag of `o` is evaluated before those checks, so an UP port that is DRAINING then, and becomes DISABLED by a
check of the same event, gets the congestion update (R142; DESIGN CHOICE, assumption 10). Such a drain takes another port to
DISABLED, flushes that port's output, counts what it removes there, lowers that output's waiting count and drops the cell in
service of its transmitter, as R61, R126, R140 and R162 ask, also where the cause is a port reset of `o` or its link leaving
UP: R65, R138, R146, R165 and R191 say of these that other accounts, transmitters, waiting counts, administration states and
counters stay as they were (DESIGN CHOICE, assumption 20). -/
def Event.outputUnavailable (c : Event) (o : PortId) : Event :=
  (c.closeOutput o).drainChecks 24 (c.losers o)

/-! ### Picks (R102) -/

/-- The cell in service that a pick names (R102, R124). -/
def Pick.source (k : Pick) : Source :=
  match k.offer with
  | .express => .cell k.input .express
  | .bulk => .cell k.input .bulk
  | .copy => .copy k.input

/-- The arbiter of `o` makes a pick when its transmitter is IDLE, the output is available and an input has a candidate
(R102); the transmitter takes it into SENDING with its marks clear (R124), and for a copy `o` joins the entry's in-service
set (R91). -/
def Event.pickCheck (c : Event) (o : PortId) : Event :=
  if (c.port o).tx.state = .idle ∧ (c.port o).available = true then
    match c.nextPick o with
    | none => c
    | some k =>
      let picked := if k.offer = .copy then c.modPort k.input fun x => { x with copies := pickCopy o x.copies } else c
      picked.modPort o fun x =>
        { x with
          arbiter := k.arbiter
          tx := { x.tx with
            state := .sending, service := some { src := k.source, aborted := false, started := false } } }
  else c

/-! ### The ingress guard (R38) -/

/-- The guard of port `p` takes a fault (R38). -/
def Event.guardFault (c : Event) (p : PortId) (k : FaultKind) : Event :=
  let g := (c.port p).guard
  match g.first with
  | none =>
    let e := c.modPort p fun x =>
      { x with guard :=
          { g with first := some k, count := 1, state := if g.mode = .freeze then .frozen else g.state } }
    (e.raise (.fault p)).raiseIf (g.mode == .freeze) (.frozen p true)
  | some _ => c.modPort p fun x => { x with guard := { g with count := min (g.count + 1) 255 } }

/-- The guard record cleared to NORMAL with no fault, mode and tolerate kept (R41, R43); the FROZEN level falls if the
guard was FROZEN (R42). -/
def Event.clearGuard (c : Event) (p : PortId) : Event :=
  let g := (c.port p).guard
  (c.modPort p fun x => { x with guard := { g with state := .normal, first := none, count := 0 } }).raiseIf
    (g.state == .frozen) (.frozen p false)

/-! ### The link enters and leaves UP (R20, R21) -/

/-- The qualifier in DOWN with its counts at 0 and the receiver unlocked, H, Q and F kept (R9, R10). -/
def Receiver.inDown (r : Receiver) : Receiver :=
  { r with locked := false, link := .down, holdoff := 0, good := 0, bad := 0 }

/-- What leaving UP does to port `p` itself (R20): the transmitter goes to DOWN, the credits are withdrawn and the record
of a credit word in flight is cleared (R54). -/
def Port.leaveUp (p : Port) : Port :=
  { p.withdraw with
    rx := p.rx.inDown
    account := { p.withdraw.account with inFlight := none }
    tx := p.tx.linkDown }

/-- The link of port `p` leaves UP (R20): its LINK level falls, a STALL level falls with it (R123), and output `p` becomes
unavailable. -/
def Event.leaveUp (c : Event) (p : PortId) : Event :=
  (((c.modPort p Port.leaveUp).raise (.link p false)).raiseIf ((c.port p).tx.state == .stalled)
    (.stall p false)).outputUnavailable p

/-- The qualifier of port `p` enters DOWN (R10, R12, R19), with the effects of leaving UP if it was UP. -/
def Event.enterDown (c : Event) (p : PortId) : Event :=
  if (c.port p).isUp then c.leaveUp p else c.modPort p fun x => { x with rx := x.rx.inDown }

/-- The link of port `p` enters UP from QUALIFYING (R21). `good` is the good count that took it there (R11). -/
def Event.enterUp (c : Event) (p : PortId) (good : Nat) : Event :=
  let e := c.modPort p fun x =>
    { x with rx := { x.rx with link := .up, good := good, bad := 0 }, tx := x.tx.linkUp }
  let f := if (c.port p).admin = .enabled then e.modPort p Port.issue else e
  (f.raise (.link p true)).pickCheck p

/-! ### The command unit (R170, R171) -/

/-- What becomes of a command record: carried out with its data, or answered with another status, changing no state
(R170). -/
inductive Answer where
  | done (c : Event) (data : RespData)
  | deny (status : Status) (data : RespData)

/-- The response to a command: the mastership byte gives holder and health as they stand after it (R170). The record in
progress on the port is complete and gone. -/
def State.respond (s : State) (sp : SupPort) (code : Byte) (status : Status) (data : RespData) : State :=
  { s with
    spi := s.spi.put sp
      { record := []
        response := some
          { status := status, code := code, holder := s.master.holder, health := s.master.health, data := data } } }

/-- The command with this code, taken on port `sp`, is answered (R170). -/
def State.answered (s : State) (sp : SupPort) (code : Byte) : Answer → State
  | .done c data => c.finish.respond sp code .ok data
  | .deny status data => s.respond sp code status data

/-- A reading command: OK with its data, and no state changes. -/
def State.reads (s : State) (data : RespData) : Answer := .done (Event.start s) data

/-- Test 3 of R171: a command that needs mastership, from a port that is not the holder, is answered NOT_MASTER. -/
def State.holderOnly (s : State) (sp : SupPort) (a : Answer) : Answer :=
  if s.master.holder = some sp then a else .deny .notMaster .empty

/-- Test 4 of R171: a wrong argument length is answered BAD_ARGUMENT with data 0xFE. -/
def badLength : Answer := .deny .badArgument (.badArgument 0xFE#8)

/-- Test 5 of R171: the argument at position `pos` is refused (R170). -/
def badArg (pos : Nat) : Answer := .deny .badArgument (.badArgument (BitVec.ofNat 8 pos))

/-- A number below `n` at position `pos`, or the refusal of the argument (R171, test 5). -/
def below (n pos x : Nat) (f : Fin n → Answer) : Answer := if h : x < n then f ⟨x, h⟩ else badArg pos

/-- A code that names a value at position `pos`, or the refusal of the argument (R171, test 5). -/
def named {α : Type} (pos : Nat) (x : Option α) (f : α → Answer) : Answer :=
  match x with
  | some a => f a
  | none => badArg pos

end Sys2Proof.Machine
end

