-- ==== Sys2Proof/Machine/Egress.lean ====
section
/-! DEFINITION. The meanings of the egress events of chapter 7: the unit boundary, the completions, HOLD, RELEASE and the
expiry of the hold timer. An event that the manual says cannot happen in the state at hand leaves the state as it is
(assumption 2). -/

namespace Sys2Proof.Machine

open Sys2Proof

/-! ### HOLD, RELEASE and the hold timer -/

/-- The timer a HOLD starts (R132): with the hold limit then held, unless it is OFF. -/
def HoldLimit.timer : HoldLimit → Option HoldLimit
  | .off => none
  | other => some other

/-- The transmitter as a HOLD enters HELD from SENDING or IDLE (R132): a cell on the link is closed with an abort mark, the
cell in service is marked aborted, and the hold timer starts. -/
def Transmitter.toHeld (t : Transmitter) : Transmitter :=
  { t.abortCell with
    state := .held
    service := t.service.map fun v => { v with aborted := true }
    timer := t.limit.timer }

/-- The restart flag of the crosspoint head in service toward `o` is set (R46, R132). -/
def Event.markHead (c : Event) (o : PortId) : Event :=
  match (c.port o).tx.service with
  | some { src := .cell i cls, .. } => c.modPort i fun x => x.putQueue o cls (markRestart (x.queue o cls))
  | _ => c

/-- HOLD (R16, R17, R132). -/
def execHold (p : PortId) (s : State) : Host.Outcome State Fault Refusal :=
  if (s.port p).delivers then
    match (s.port p).tx.state with
    | .sending =>
      .next (((Event.start s).markHead p).modPort p fun x => { x with tx := x.tx.toHeld }).finish
    | .idle => .next ((Event.start s).modPort p fun x => { x with tx := x.tx.toHeld }).finish
    | .down | .held | .stalled => .next s
  else .next s

/-- An aborted cell restarts (R104, R133): its aborted mark is cleared, its started mark is clear, SENDING. -/
def Transmitter.restart (t : Transmitter) : Transmitter :=
  { t with
    state := .sending, timer := none
    service := t.service.map fun v => { v with aborted := false, started := false } }

/-- RELEASE (R16, R17, R133). -/
def execRelease (p : PortId) (s : State) : Host.Outcome State Fault Refusal :=
  if (s.port p).delivers then
    match (s.port p).tx.state with
    | .held =>
      if (s.port p).tx.service.isSome then
        .next ((Event.start s).modPort p fun x => { x with tx := x.tx.restart }).finish
      else
        .next (((Event.start s).modPort p fun x =>
          { x with tx := { x.tx with state := .idle, timer := none } }).pickCheck p).finish
    | .stalled =>
      .next ((((Event.start s).modPort p fun x => { x with tx := { x.tx with state := .idle } }).raise
        (.stall p false)).pickCheck p).finish
    | .down | .idle | .sending => .next s
  else .next s

/-- HOLD_TIMER_EXPIRY (R134): STALLED, the STALL level rises, and the output becomes unavailable. A timer that does not
run does not expire. -/
def execHoldTimerExpiry (o : PortId) (s : State) : Host.Outcome State Fault Refusal :=
  if (s.port o).tx.state = .held ∧ (s.port o).tx.timer.isSome = true then
    .next ((((Event.start s).modPort o fun x =>
      { x with tx := { x.tx with state := .stalled, timer := none } }).raise (.stall o true)).outputUnavailable o).finish
  else .next s

/-! ### The unit boundary (R127) -/

/-- The unit that carries the cell in service (R4, R124): the rewritten header of the head of its queue, or of the entry
that holds `o` in its in-service set, and its payload. -/
def State.cellUnit (s : State) (o : PortId) (src : Source) : Option LinkUnit :=
  match src with
  | .cell i cls => ((s.port i).queue o cls).head?.map fun e => .cell (unicastHeader i e) e.payload
  | .copy i => ((s.port i).servedCopy o).map fun e => .cell (copyHeader i e) e.payload

/-- The entries of a CREDIT word: the first four keys of the return list, each with its pending count (R52). -/
def Account.wordEntries (a : Account) : List (Key × Nat) :=
  (a.returnList.take 4).map fun k => (k, a.pending.get k)

/-- A RESYNC is offered (R129). -/
def Port.offersResync (p : Port) : Bool := p.isUp && p.tx.resyncWord.isSome

/-- A CONGESTION word is offered (R130). -/
def Port.offersCongestion (p : Port) : Bool := p.isUp && p.tx.congestionUpdate && p.admin != .disabled

/-- A CREDIT word is offered (R52). -/
def Port.offersCredit (p : Port) : Bool :=
  p.lends && !p.account.returnList.isEmpty && !p.account.resyncPending && p.account.inFlight.isNone

/-- The highest-ranked offered word is taken (R127, R129, R130, R131, R52): its contents are fixed now. `map` is the
congestion map as it stands. -/
def Port.takeWord (map : OutSet) (p : Port) : Option Port :=
  if p.offersResync then
    p.tx.resyncWord.map fun e =>
      { p with tx := { p.tx with resyncWord := none, wordOwed := false, onLink := some (.resync e) } }
  else if p.offersCongestion then
    some { p with tx := { p.tx with congestionUpdate := false, wordOwed := false, onLink := some (.congestion map) } }
  else if p.offersCredit then
    some { p with
      account := { p.account with
        inFlight := some { epoch := p.epoch, entries := p.account.wordEntries, void := false } }
      tx := { p.tx with wordOwed := false, onLink := some (.credit p.epoch p.account.wordEntries) } }
  else none

/-- The unit of a cell in SENDING that has not started (R124, R127 step 3). -/
def State.waitingCell (s : State) (o : PortId) : Option LinkUnit :=
  match (s.port o).tx.state, (s.port o).tx.service with
  | .sending, some v => if v.started then none else s.cellUnit o v.src
  | _, _ => none

/-- The cell in service starts on the link (R124). -/
def Port.startCell (u : LinkUnit) (p : Port) : Port :=
  { p with tx := { p.tx with
      wordOwed := false, onLink := some u
      service := p.tx.service.map fun v => { v with started := true } } }

/-- An IDLE word goes (R127, step 5). -/
def Port.startIdle (p : Port) : Port := { p with tx := { p.tx with wordOwed := false, onLink := some .idle } }

/-- The choice at a unit boundary (R127), steps 1 to 5. -/
def State.nextUnit (s : State) (o : PortId) (p : Port) : Port :=
  let word := p.takeWord s.congestionMap
  if p.tx.spacing = 256 then { p with tx := { p.tx with onLink := some .marker } }
  else
    match (if p.tx.wordOwed then word else none) with
    | some q => q
    | none =>
      match s.waitingCell o with
      | some u => p.startCell u
      | none =>
        match word with
        | some q => q
        | none => p.startIdle

/-- The link stands at a unit boundary: nothing is in transmission, or an IDLE word or a MARKER is, whose end is this
boundary. The end of any other unit is an event of its own (R125, R53, R129, R130). -/
def Transmitter.atBoundary (t : Transmitter) : Bool :=
  match t.onLink with
  | none | some .idle | some .marker => true
  | some (.resync _) | some (.congestion _) | some (.credit _ _) | some (.cell _ _) => false

/-- UNIT_BOUNDARY (R127, R128). -/
def execUnitBoundary (o : PortId) (s : State) : Host.Outcome State Fault Refusal :=
  if (s.port o).tx.atBoundary then
    .next ((Event.start s).modPort o fun x => s.nextUnit o { x with tx := x.tx.endUnit .whole }).finish
  else .next s

/-! ### Completions -/

/-- A counter that a meter keeps, raised by 1 by its mode (R148). -/
def Meter.raised (m : Meter) : Nat :=
  match m.mode with
  | .wrap => (m.count + 1) % 4294967296
  | .saturate => min (m.count + 1) 4294967295

/-- The meter after it has counted a departure on its target (R148). -/
def Meter.counted (m : Meter) (d : Departed) : Meter := if m.sel.covers d then { m with count := m.raised } else m

/-- The departure closes the meter's interval (R149). -/
def Meter.closes (m : Meter) : Bool := m.interval != 0 && m.seen + 1 == m.interval

/-- The meter after its interval counter has taken the departure (R149): a capture when it equals N. -/
def Meter.stepInterval (m : Meter) : Meter :=
  if m.interval = 0 then m
  else if m.closes then { m with snapshot := m.count, count := 0, seen := 0 }
  else { m with seen := m.seen + 1 }

/-- The meter sees a departure on output `o`: it is RUNNING and `o` is its target (R148). -/
def Meter.sees (m : Meter) (o : PortId) : Bool := m.running && m.target == o

/-- Every meter, in order. -/
def allMeters : List (Fin 8) := [0, 1, 2, 3, 4, 5, 6, 7]

/-- The meters take a departure on output `o` (R148, R149); a meter that closes its interval raises CAPTURE. -/
def Event.meterDeparture (c : Event) (o : PortId) (d : Departed) : Event :=
  let taken : Event :=
    { c with meters := c.meters.map fun m => if m.sees o then (m.counted d).stepInterval else m }
  allMeters.foldl
    (fun e k => e.raiseIf ((c.meters.get k).sees o && (c.meters.get k).closes) (.capture k)) taken

/-- The departure as the meters see it, and whether it frees a place of its input (R47, R93, R148). -/
def State.departing (s : State) (o : PortId) (src : Source) : Departed × Bool :=
  match src with
  | .cell i cls => ({ input := i, cls := cls, copy := false }, true)
  | .copy i =>
    let e := (s.port i).servedCopy o
    ({ input := i, cls := (e.map (·.cls)).getD .bulk, copy := true },
      (e.map fun e => (e.lose o).remaining == OutSet.empty).getD false)

/-- The input whose cell departs. -/
def Source.input : Source → PortId
  | .cell i _ => i
  | .copy i => i

/-- The cell or copy leaves (R125): a crosspoint head leaves its queue (R47), a copy takes `o` out of its entry's sets, and
the entry leaves if that empties it (R93, R94). -/
def Port.depart (o : PortId) (src : Source) (p : Port) : Port :=
  match src with
  | .cell _ cls => p.putQueue o cls (p.queue o cls).tail
  | .copy _ => { p with copies := departCopy o p.copies }

/-- The place a departure frees under its key (R47, R94). -/
def Source.key (o : PortId) : Source → Key
  | .cell _ cls => unicastKey o cls
  | .copy _ => keyM

/-- The bucket refill at a completion (R112). -/
def Arbiter.refill (a : Arbiter) : Arbiter := { a with level := min (a.level + a.rate) (256 * a.burst) }

/-- The completion of the cell in service of output `o`, but for the check of the arbiter that follows it (R125): the cell
leaves and frees its place, the departed counter rises, the waiting count falls, the meters count it, the bucket is refilled,
the transmitter returns to IDLE, and the drain check of a DRAINING input is made.

The order of these parts is the model's where their result could differ (DESIGN CHOICE, assumption 10). The flag is
evaluated for the departure before the drain check, so the transmitter of an UP port that is DRAINING then, and becomes
DISABLED by the drain check of the same event, gets the congestion update (R142). -/
def Event.complete (c : Event) (o : PortId) (src : Source) : Event :=
  let d := c.departing o src
  let sent := c.modPort o fun x =>
    { x.count .departed 1 with
      arbiter := x.arbiter.refill
      tx := { x.tx.endUnit .whole with state := .idle, service := none } }
  let left := sent.modPort src.input (Port.depart o src)
  let freed := if d.2 then left.free src.input (src.key o) 1 else left
  let metered := (freed.setWaiting o ((freed.port o).monitor.waiting - 1)).meterDeparture o d.1
  metered.drainChecks 24 (if d.2 then [src.input] else [])

/-- The completion of the cell in service of output `o`, with the arbiter's check for its next pick after it (R102, R125). A
cause of unavailability that is a later event finds the cell that was picked and drops it; one that meets the completion finds
no pick made (R114, `execTogether`; DESIGN CHOICE, assumption 18). -/
def Event.depart (c : Event) (o : PortId) (src : Source) : Event := (c.complete o src).pickCheck o

/-- A cell is being sent: the transmitter is SENDING and its cell in service has started (R125). -/
def Transmitter.sendingCell (t : Transmitter) : Option Source :=
  match t.state, t.service with
  | .sending, some v => if v.started then some v.src else none
  | _, _ => none

/-- DEPARTURE (R125). -/
def execDeparture (o : PortId) (s : State) : Host.Outcome State Fault Refusal :=
  match (s.port o).tx.sendingCell with
  | some src => .next ((Event.start s).depart o src).finish
  | none => .next s

/-- The counts of one entry of a completed CREDIT word move from pending to outstanding; a key whose pending count is then
0 leaves the return list (R53). -/
def Account.credit (a : Account) (x : Key × Nat) : Account :=
  { a with
    pending := a.pending.put x.1 (a.pending.get x.1 - x.2)
    outstanding := a.outstanding.put x.1 (a.outstanding.get x.1 + x.2)
    returnList := if a.pending.get x.1 - x.2 = 0 then a.returnList.filter (· ≠ x.1) else a.returnList }

/-- The account as its credit word completes (R53): unless the word is void its counts move; the record is cleared. -/
def Account.wordDone (a : Account) : Account :=
  match a.inFlight with
  | none => a
  | some w =>
    if w.void then { a with inFlight := none } else { w.entries.foldl Account.credit a with inFlight := none }

/-- CREDIT_WORD_COMPLETION (R53, R131). -/
def execCreditWordCompletion (o : PortId) (s : State) : Host.Outcome State Fault Refusal :=
  match (s.port o).tx.onLink with
  | some (.credit _ _) =>
    .next ((Event.start s).modPort o fun x =>
      { x with account := x.account.wordDone, tx := x.tx.endUnit .whole }).finish
  | _ => .next s

/-- RESYNC_COMPLETION (R56, R129): the resync-pending flag clears if the epoch sent equals the current epoch. -/
def execResyncCompletion (o : PortId) (s : State) : Host.Outcome State Fault Refusal :=
  match (s.port o).tx.onLink with
  | some (.resync e) =>
    .next ((Event.start s).modPort o fun x =>
      { x with
        account := if e = x.epoch then { x.account with resyncPending := false } else x.account
        tx := x.tx.endUnit .whole }).finish
  | _ => .next s

/-- CONGESTION_WORD_COMPLETION (R130): no effect in the part but the end of the unit (R128). -/
def execCongestionWordCompletion (o : PortId) (s : State) : Host.Outcome State Fault Refusal :=
  match (s.port o).tx.onLink with
  | some (.congestion _) => .next ((Event.start s).modPort o fun x => { x with tx := x.tx.endUnit .whole }).finish
  | _ => .next s

end Sys2Proof.Machine
end

