-- ==== Sys2Proof/Machine/GroupCommands.lean ====
section
/-! DEFINITION. The meanings of the commands that write the group table (chapter 4). -/

namespace Sys2Proof.Machine

open Sys2Proof

/-- The target way of an install (R75): the named way, or under AUTO the lowest valid way of the tag whose selector
overlaps, otherwise the lowest invalid way, otherwise the victim. -/
def GroupSet.target (g : GroupSet) (tag : Nat) (sel : Selector) : Option (Fin 4) → Fin 4
  | some w => w
  | none =>
    match allWays.find? (g.conflicts tag sel) with
    | some w => w
    | none =>
      match allWays.find? fun w => !(g.ways.get w).valid with
      | some w => w
      | none => g.victim

/-- The duplicate of an install at `target` (R76): the lowest valid way other than the target that holds the tag with a
selector that overlaps. -/
def GroupSet.duplicate (g : GroupSet) (tag : Nat) (sel : Selector) (target : Fin 4) : Option (Fin 4) :=
  allWays.find? fun w => w != target && g.conflicts tag sel w

/-- How an install takes its target (R77, R78). -/
def GroupSet.placed (g : GroupSet) (tag : Nat) (sel : Selector) (target : Fin 4) : Placed :=
  let e := g.ways.get target
  if e.valid = false then .invalidWay
  else if g.conflicts tag sel target then .inPlace
  else .evicted e.tag e.sel e.fanout

/-- An eviction took place. -/
def Placed.isEviction : Placed → Bool
  | .evicted _ _ _ => true
  | .inPlace | .invalidWay => false

/-- The set after an install has written its target, which becomes most recently used (R78, R69). -/
def GroupSet.install (g : GroupSet) (tag : Nat) (sel : Selector) (fanout : OutSet) (target : Fin 4) : GroupSet :=
  let e : GroupEntry := { valid := true, tag := tag, sel := sel, fanout := fanout, hits := 0 }
  { g with ways := g.ways.put target e }.touch target

/-- The set of the group table replaced. -/
def Event.setGroup (c : Event) (set : Fin 256) (g : GroupSet) : Event := { c with groups := c.groups.put set g }

/-- GROUP_INSTALL, code 0x30 (R74 to R78). -/
def execGroupInstall (sp : SupPort) (args : List Byte) (s : State) : Host.Outcome State Fault Refusal :=
  .next <| s.answered sp 0x30#8 <| s.holderOnly sp <|
    match args with
    | [gHi, gLo, selector, f3, f2, f1, f0, placement] =>
      below 4096 1 (arg16 gHi gLo) fun id => named 2 (selectorArg selector) fun sel =>
        named 4 (placementArg placement) fun place =>
          let set := groupSet id.val
          let tag := groupTag id.val
          let fanout := fanoutArg f3 f2 f1 f0
          let g := s.groups.get set
          let way := g.target tag sel place
          match g.duplicate tag sel way with
          | some w => .deny .duplicate (.duplicate w)
          | none =>
            let how := g.placed tag sel way
            let g' := g.install tag sel fanout way
            .done (((Event.start s).setGroup set g').raiseIf how.isEviction (.evict set))
              (.install set way sel fanout how g'.root g'.l g'.r)
    | _ => badLength

/-- An entry made invalid; its other fields are kept (R67, R79). -/
def GroupEntry.remove (e : GroupEntry) : GroupEntry := { e with valid := false }

/-- GROUP_REMOVE, code 0x31 (R79). -/
def execGroupRemove (sp : SupPort) (args : List Byte) (s : State) : Host.Outcome State Fault Refusal :=
  .next <| s.answered sp 0x31#8 <| s.holderOnly sp <|
    match args with
    | [setHi, setLo, way] => below 256 1 (arg16 setHi setLo) fun set => below 4 2 way.toNat fun w =>
        let g := s.groups.get set
        .done ((Event.start s).setGroup set { g with ways := g.ways.put w (g.ways.get w).remove })
          (.removed (g.ways.get w).valid)
    | _ => badLength

/-- A valid entry that holds the tag, whatever its selector (R80). -/
def GroupEntry.ofTag (e : GroupEntry) (tag : Nat) : Bool := e.valid && e.tag == tag

/-- GROUP_REMOVE_ID, code 0x32 (R80). -/
def execGroupRemoveId (sp : SupPort) (args : List Byte) (s : State) : Host.Outcome State Fault Refusal :=
  .next <| s.answered sp 0x32#8 <| s.holderOnly sp <|
    match args with
    | [gHi, gLo] => below 4096 1 (arg16 gHi gLo) fun id =>
        let set := groupSet id.val
        let tag := groupTag id.val
        let g := s.groups.get set
        let ways := allWays.filter fun w => (g.ways.get w).ofTag tag
        .done ((Event.start s).setGroup set
            { g with ways := g.ways.map fun e => if e.ofTag tag then e.remove else e })
          (.removedWays ways.length ways)
    | _ => badLength

/-- Every entry of a set invalid and its tree at 0, 0, 0 (R81). -/
def GroupSet.flush (g : GroupSet) : GroupSet :=
  { ways := g.ways.map GroupEntry.remove, root := false, l := false, r := false }

/-- The number of valid entries of the table (R81). -/
def State.validEntries (s : State) : Nat :=
  (s.groups.toList.map fun g => g.ways.toList.countP (·.valid)).sum

/-- GROUP_FLUSH, code 0x33 (R81). -/
def execGroupFlush (sp : SupPort) (args : List Byte) (s : State) : Host.Outcome State Fault Refusal :=
  .next <| s.answered sp 0x33#8 <| s.holderOnly sp <|
    match args with
    | [] => .done { Event.start s with groups := s.groups.map GroupSet.flush } (.flushed s.validEntries)
    | _ => badLength

end Sys2Proof.Machine
end

