-- ==== Sys2Proof/Machine/Ingress.lean ====
section
/-! DEFINITION. The meaning of the completion of a cell's reception: the classification rule of chapter 2, with the group
lookup of chapter 4 and the acceptances of chapters 3 and 5. -/

namespace Sys2Proof.Machine

open Sys2Proof

/-- The credit key of a cell (R25): M for a multicast cell, (d, c) for a unicast cell to output `d`. -/
def Header.key (h : Header) : Key :=
  if h.multicast then keyM
  else if d : h.port.toNat < 24 then unicastKey ⟨h.port.toNat, d⟩ h.cls
  else keyM

/-- A cell discarded on input `p` and counted under `k` (R26). -/
def Event.discard (c : Event) (p : PortId) (k : Counter) : Event := c.count p k

/-- The cell's key loses one outstanding credit (R26 step 7, R27). -/
def Event.charge (c : Event) (p : PortId) (k : Key) : Event :=
  c.modPort p fun x =>
    { x with account := { x.account with outstanding := x.account.outstanding.put k (x.account.outstanding.get k - 1) } }

/-- A charged cell discarded: counted under `k`, and its credit freed as pending at once (R26, R27). -/
def Event.discardCharged (c : Event) (p : PortId) (key : Key) (k : Counter) : Event := (c.count p k).free p key 1

/-- A unicast cell joins the tail of X(p, d, c) with its restart flag clear (R28, R45), and raises the accepted counter and
the waiting count of `d`, whose arbiter may pick (R30). -/
def Event.acceptCell (c : Event) (p d : PortId) (h : Header) (payload : List Byte) : Event :=
  let e : CellEntry := { cls := h.cls, flow := h.flow, plane := h.plane, payload := payload, restart := false }
  let joined := (c.modPort p fun x => x.putQueue d h.cls (x.queue d h.cls ++ [e])).count p .accepted
  (joined.setWaiting d ((joined.port d).monitor.waiting + 1)).pickCheck d

/-- The way a lookup has hit becomes the most recently used of its set and its hit count rises, saturating (R71). -/
def GroupSet.hitWay (g : GroupSet) (w : Fin 4) : GroupSet :=
  { g with ways := g.ways.put w { g.ways.get w with hits := min ((g.ways.get w).hits + 1) 65535 } }.touch w

/-- A multicast cell joins the tail of p's replication queue with the remaining set given and an empty in-service set
(R29, R88), and raises the accepted counter and the waiting count of every output of the set, whose arbiters may pick
(R30). -/
def Event.acceptCopies (c : Event) (p : PortId) (h : Header) (payload : List Byte) (remaining : OutSet) : Event :=
  let e : CopyEntry :=
    { group := h.group, cls := h.cls, remaining := remaining, inService := OutSet.empty, flow := h.flow,
      plane := h.plane, payload := payload }
  let joined := (c.modPort p fun x => { x with copies := x.copies ++ [e] }).count p .accepted
  let counted := remaining.toList.foldl (fun c o => c.setWaiting o ((c.port o).monitor.waiting + 1)) joined
  remaining.toList.foldl (fun c o => c.pickCheck o) counted

/-- Steps 8 and 9 of R26, for a cell whose key has been charged and whose guard lets it pass. -/
def Event.place (c : Event) (p : PortId) (h : Header) (payload : List Byte) : Event :=
  if h.multicast then
    let set := groupSet h.group.toNat
    let g := c.groups.get set
    match g.hit (groupTag h.group.toNat) h.cls with
    | none => c.discardCharged p keyM .groupMiss
    | some w =>
      let looked : Event := { c with groups := c.groups.put set (g.hitWay w) }
      let remaining := OutSet.inter (g.ways.get w).fanout c.availableSet
      if remaining = OutSet.empty then looked.discardCharged p keyM .emptyFanout
      else looked.acceptCopies p h payload remaining
  else if d : h.port.toNat < 24 then
    let o : PortId := ⟨h.port.toNat, d⟩
    if (c.port o).available then c.acceptCell p o h payload
    else c.discardCharged p (unicastKey o h.cls) .unavailable
  else c

/-- The classification rule (R26): the first check whose condition holds decides. -/
def Event.classify (c : Event) (p : PortId) (data : List Byte) (closed : CellEnd) : Event :=
  let x := c.port p
  let h := readHeader data
  if x.rx.link ≠ .up then c.discard p .notUp
  else if x.admin ≠ .enabled then c.discard p .admin
  else if headerError data closed then
    ((c.discard p .headerError).guardFault p .headerError).modPort p Port.issue
  else if h.epoch ≠ x.epoch then c.discard p .staleEpoch
  else if h.multicast = false ∧ 24 ≤ h.port.toNat then
    ((c.discard p .badDest).guardFault p .badDest).modPort p Port.issue
  else if x.account.outstanding.get h.key = 0 then (c.discard p .overdraft).guardFault p .overdraft
  else if x.guard.state = .frozen ∧ x.guard.tolerate = false then
    (c.charge p h.key).discardCharged p h.key .frozen
  else (c.charge p h.key).place p h (readPayload data)

/-- CELL_RECEPTION_COMPLETE (R24, R26, R35): a locked receiver hands the cell to the classifier; an unlocked one delivers
no unit (R9, R15). -/
def execCellReceptionComplete (p : PortId) (data : List Byte) (closed : CellEnd) (s : State) :
    Host.Outcome State Fault Refusal :=
  if (s.port p).rx.locked then .next ((Event.start s).classify p data closed).finish else .next s

end Sys2Proof.Machine
end

