-- ==== Sys2Proof/Machine/Link.lean ====
section
/-! DEFINITION. The meanings of the link events of chapter 1: lock, markers, and the units that end at the receiver. An
event that the manual says cannot reach its block in the state at hand leaves the state as it is (assumption 2). -/

namespace Sys2Proof.Machine

open Sys2Proof

/-- Lock acquired in DOWN (R9, R11): HOLDOFF when H is above 0, QUALIFYING when it is 0. -/
def Receiver.acquire (r : Receiver) : Receiver :=
  if 0 < r.h then { r with locked := true, link := .holdoff, holdoff := 0 }
  else { r with locked := true, link := .qualifying, good := 0 }

/-- LOCK_ACQUIRED (R9, R11, R14). A lock acquired event always reaches an unlocked receiver in DOWN (R9). -/
def execLockAcquired (p : PortId) (s : State) : Host.Outcome State Fault Refusal :=
  if (s.port p).rx.locked = false ∧ (s.port p).rx.link = .down then
    .next ((Event.start s).modPort p fun x => { x with rx := x.rx.acquire }).finish
  else .next s

/-- What a unit cut short is counted as (R18): a cell LINK_LOSS when the link was UP and NOT_UP before it; a word nothing. -/
def cutCounter (link : LinkState) (cut : CutShort) : Option Counter :=
  match cut with
  | .cell => if link = .up then some .linkLoss else some .notUp
  | .nothing | .word => none

/-- LOCK_LOST (R9, R11, R12, R18): the unit in reception is cut short and the qualifier enters DOWN, with the effects of
R20 when it was UP. -/
def execLockLost (p : PortId) (cut : CutShort) (s : State) : Host.Outcome State Fault Refusal :=
  if (s.port p).rx.locked = true ∧ (s.port p).rx.link ≠ .down then
    let c := Event.start s
    let e := match cutCounter (s.port p).rx.link cut with
      | some k => c.count p k
      | none => c
    .next (e.enterDown p).finish
  else .next s

/-- A marker in HOLDOFF, good or bad (R11). -/
def Receiver.holdoffMarker (r : Receiver) : Receiver :=
  if r.h ≤ min (r.holdoff + 1) 255 then { r with holdoff := min (r.holdoff + 1) 255, link := .qualifying, good := 0 }
  else { r with holdoff := min (r.holdoff + 1) 255 }

/-- MARKER_RECEIVED (R8, R11, R12, R14): counted by the qualifier by its state. -/
def execMarkerReceived (p : PortId) (word : ControlWord) (s : State) : Host.Outcome State Fault Refusal :=
  let c := Event.start s
  let r := (s.port p).rx
  if r.locked then
    match r.link with
    | .down => .next s
    | .holdoff => .next (c.modPort p fun x => { x with rx := r.holdoffMarker }).finish
    | .qualifying =>
      if goodMarker word then
        if r.q ≤ r.good + 1 then .next (c.enterUp p (r.good + 1)).finish
        else .next (c.modPort p fun x => { x with rx := { r with good := r.good + 1 } }).finish
      else .next (c.modPort p fun x => { x with rx := { r with good := 0 } }).finish
    | .up =>
      if goodMarker word then .next (c.modPort p fun x => { x with rx := { r with bad := 0 } }).finish
      else if r.f ≤ r.bad + 1 then .next (c.enterDown p).finish
      else .next (c.modPort p fun x => { x with rx := { r with bad := r.bad + 1 } }).finish
  else .next s

/-- IDLE_RECEIVED (R16, R17): no effect. -/
def execIdleReceived (_p : PortId) (s : State) : Host.Outcome State Fault Refusal := .next s

/-- CONTROL_ERROR_WORD (R16, R17): in UP it is counted CONTROL_ERROR and goes to the guard as a fault; before UP it is
dropped without count. -/
def execControlErrorWord (p : PortId) (s : State) : Host.Outcome State Fault Refusal :=
  if (s.port p).delivers then
    .next (((Event.start s).count p .controlError).guardFault p .controlError).finish
  else .next s

/-- WORD_DROPPED (R1): dropped without count. -/
def execWordDropped (_p : PortId) (s : State) : Host.Outcome State Fault Refusal := .next s

/-- ABORTED_CELL (R1): discarded by the receiver, not classified and not counted. -/
def execAbortedCell (_p : PortId) (s : State) : Host.Outcome State Fault Refusal := .next s

end Sys2Proof.Machine
end

