-- ==== Sys2Proof/Machine/Mastership.lean ====
section
/-! DEFINITION. The meanings of the commands and the expiry that the mastership unit takes (chapter 10). -/

namespace Sys2Proof.Machine

open Sys2Proof

/-- A port becomes holder (R177): HEALTHY, EXPECT_A, armed clear, and the timer starts with the current period code. -/
def Mastership.grant (m : Mastership) (sp : SupPort) : Mastership :=
  { m with holder := some sp, health := .healthy, pointer := .expectA, armed := false, timer := some m.period }

/-- A CLAIM from port `sp` changes the holder (R177): the holder is NONE, or the other port is ALERTED. -/
def Mastership.grants (m : Mastership) (sp : SupPort) : Bool :=
  match m.holder with
  | none => true
  | some holder => holder != sp && m.health == .alerted

/-- The values while the holder is NONE (R176); the period code is kept. -/
def Mastership.release (m : Mastership) : Mastership :=
  { m with holder := none, health := .healthy, pointer := .expectA, armed := false, timer := none }

/-- The mastership unit of the event replaced. -/
def Event.setMaster (c : Event) (m : Mastership) : Event := { c with master := m }

/-- CLAIM, code 0x10 (R177). -/
def execClaim (sp : SupPort) (args : List Byte) (s : State) : Host.Outcome State Fault Refusal :=
  .next <| s.answered sp 0x10#8 <|
    match args with
    | [] =>
      if s.master.grants sp then .done (((Event.start s).setMaster (s.master.grant sp)).raise .change) (.claim true)
      else if s.master.holder = some sp then s.reads (.claim false)
      else .deny .alreadyHeld .empty
    | _ => badLength

/-- RELINQUISH, code 0x11 (R178). -/
def execRelinquish (sp : SupPort) (args : List Byte) (s : State) : Host.Outcome State Fault Refusal :=
  .next <| s.answered sp 0x11#8 <| s.holderOnly sp <|
    match args with
    | [] => .done (((Event.start s).setMaster s.master.release).raise .change) .empty
    | _ => badLength

/-- A token from the holder moves the pointer and the armed flag (R179); the answer also says whether the timer
restarts. -/
def Mastership.token (m : Mastership) (t : TokenPtr) : Mastership × Bool :=
  match t, m.pointer, m.armed with
  | .expectA, .expectA, _ => ({ m with armed := true, pointer := .expectB }, false)
  | .expectA, .expectB, _ => ({ m with armed := false, pointer := .expectA }, false)
  | .expectB, .expectB, true =>
    ({ m with timer := some m.period, health := .healthy, armed := false, pointer := .expectA }, true)
  | .expectB, .expectB, false => ({ m with armed := false, pointer := .expectA }, false)
  | .expectB, .expectA, _ => ({ m with armed := false, pointer := .expectB }, false)

/-- KEEPALIVE, code 0x12 (R179). -/
def execKeepalive (sp : SupPort) (args : List Byte) (s : State) : Host.Outcome State Fault Refusal :=
  .next <| s.answered sp 0x12#8 <| s.holderOnly sp <|
    match args with
    | [t] => named 1 (tokenArg t) fun t =>
        let r := s.master.token t
        .done ((Event.start s).setMaster r.1) (.keepalive r.2 r.1.pointer)
    | _ => badLength

/-- TIMER_PERIOD, code 0x60 (R181): the running timer keeps the period it was started with. -/
def execTimerPeriod (sp : SupPort) (args : List Byte) (s : State) : Host.Outcome State Fault Refusal :=
  .next <| s.answered sp 0x60#8 <| s.holderOnly sp <|
    match args with
    | [code] => named 1 (periodArg code) fun p =>
        .done ((Event.start s).setMaster { s.master with period := p }) (.timerPeriod p s.master.timer)
    | _ => badLength

/-- MASTERSHIP_TIMER_EXPIRY (R180): the timer has run for its period since it was last started. A timer that is stopped does not
expire, and an expiry that meets a restart taken before it does not happen (`execTogether`, R182). -/
def execMastershipTimerExpiry (s : State) : Host.Outcome State Fault Refusal :=
  if s.master.timer.isSome then
    match s.master.health with
    | .healthy =>
      .next (((Event.start s).setMaster
        { s.master with health := .alerted, timer := some s.master.period }).raise .alert).finish
    | .alerted => .next (((Event.start s).setMaster s.master.release).raise .change).finish
  else .next s

end Sys2Proof.Machine
end

