-- ==== Sys2Proof/Machine/MeterCommands.lean ====
section
/-! DEFINITION. The meanings of the meter commands (chapter 8). -/

namespace Sys2Proof.Machine

open Sys2Proof

/-- Meter `m` replaced. -/
def Event.setMeter (c : Event) (m : Fin 8) (x : Meter) : Event := { c with meters := c.meters.put m x }

/-- The selector of METER_SET, or the refusal of the argument at its position (R150). -/
def meterSelector (sel input : Byte) (f : MeterSel → Answer) : Answer :=
  match meterSelArg sel input with
  | .ok x => f x
  | .error pos => badArg pos

/-- METER_SET, code 0x50 (R150): the arguments are tested first (R171), then a RUNNING meter refuses. -/
def execMeterSet (sp : SupPort) (args : List Byte) (s : State) : Host.Outcome State Fault Refusal :=
  .next <| s.answered sp 0x50#8 <| s.holderOnly sp <|
    match args with
    | [m, target, sel, input, mode, nHi, nLo] =>
      below 8 1 m.toNat fun m => below 24 2 target.toNat fun t => meterSelector sel input fun sel =>
        named 5 (meterModeArg mode) fun mode =>
          let x := s.meters.get m
          if x.running then .deny .meterRunning .empty
          else
            let y := { x with target := t, sel := sel, mode := mode, interval := arg16 nHi nLo }
            .done ((Event.start s).setMeter m y) (.meter y)
    | _ => badLength

/-- METER_START, code 0x51 (R151). -/
def execMeterStart (sp : SupPort) (args : List Byte) (s : State) : Host.Outcome State Fault Refusal :=
  .next <| s.answered sp 0x51#8 <| s.holderOnly sp <|
    match args with
    | [m] => below 8 1 m.toNat fun m =>
        let x := s.meters.get m
        let y := if x.running then x else { x with running := true, count := 0, seen := 0 }
        .done ((Event.start s).setMeter m y) (.meterStart x.running y.running y.count y.snapshot y.seen)
    | _ => badLength

/-- METER_STOP, code 0x52 (R151). -/
def execMeterStop (sp : SupPort) (args : List Byte) (s : State) : Host.Outcome State Fault Refusal :=
  .next <| s.answered sp 0x52#8 <| s.holderOnly sp <|
    match args with
    | [m] => below 8 1 m.toNat fun m =>
        let x := s.meters.get m
        let y := if x.running then { x with running := false, count := 0, seen := 0 } else x
        .done ((Event.start s).setMeter m y) (.meterStop y.running y.count y.snapshot y.seen)
    | _ => badLength

/-- METER_CAPTURE, code 0x53 (R152): as an automatic capture, but no CAPTURE notice is raised. -/
def execMeterCapture (sp : SupPort) (args : List Byte) (s : State) : Host.Outcome State Fault Refusal :=
  .next <| s.answered sp 0x53#8 <| s.holderOnly sp <|
    match args with
    | [m] => below 8 1 m.toNat fun m =>
        let x := s.meters.get m
        let y := if x.running then { x with snapshot := x.count, count := 0, seen := 0 } else x
        .done ((Event.start s).setMeter m y) (.meterCapture y.snapshot y.running)
    | _ => badLength

end Sys2Proof.Machine
end

