-- ==== Sys2Proof/Machine/Notices.lean ====
section
/-! DEFINITION. The meanings of the notice commands and of COUNTERS_CLEAR (chapter 11). A notice command acts on the unit
of the port it is taken from. -/

namespace Sys2Proof.Machine

open Sys2Proof

/-- What NOTICES_READ gives of a pair (R187). -/
def State.noticeItem (s : State) (x : NoticePair) : NoticeItem :=
  { kind := x.kind, index := x.index, level := s.noticeLevel x.kind x.index }

/-- NOTICES_READ, code 0x0C (R187). -/
def execNoticesRead (sp : SupPort) (args : List Byte) (s : State) : Host.Outcome State Fault Refusal :=
  .next <| s.answered sp 0x0C#8 <|
    match args with
    | [] =>
      let u := s.units.get sp
      s.reads (.notices u.latched.length (min u.latched.length 8) ((u.latched.take 8).map s.noticeItem) u.evictSet)
    | _ => badLength

/-- The unit with the named pairs removed (R188); the alarm line is released when the set becomes empty (R186). -/
def NoticeUnit.clear (u : NoticeUnit) (pairs : List NoticePair) : NoticeUnit :=
  let left := u.latched.filter fun x => x ∉ pairs
  { u with latched := left, alarm := !left.isEmpty }

/-- The event with the requesting port's unit replaced. -/
def Event.setUnit (c : Event) (sp : SupPort) (u : NoticeUnit) : Event := { c with units := c.units.put sp u }

/-- NOTICES_CLEAR, code 0x0D (R188): the argument length is 1 + 2 × count. -/
def execNoticesClear (sp : SupPort) (args : List Byte) (s : State) : Host.Outcome State Fault Refusal :=
  .next <| s.answered sp 0x0D#8 <|
    match args with
    | [] => badLength
    | count :: rest =>
      if rest.length ≠ 2 * count.toNat then badLength
      else if 8 < count.toNat then badArg 1
      else
        match clearPairs 2 rest with
        | .error pos => badArg pos
        | .ok pairs =>
          let u := s.units.get sp
          let v := u.clear pairs
          .done ((Event.start s).setUnit sp v) (.cleared (u.latched.length - v.latched.length) v.latched.length)

/-- The unit with one setting written (R185). -/
def NoticeUnit.configure (u : NoticeUnit) (k : NoticeKind) (x : Setting) : NoticeUnit :=
  match k, x with
  | .link, .edge e => { u with link := e }
  | .congestion, .edge e => { u with congestion := e }
  | .frozen, .edge e => { u with frozen := e }
  | .stall, .edge e => { u with stall := e }
  | .fault, .enable b => { u with fault := b }
  | .drainDone, .enable b => { u with drainDone := b }
  | .evict, .enable b => { u with evict := b }
  | .alert, .enable b => { u with alert := b }
  | .change, .enable b => { u with change := b }
  | .capture, .enable b => { u with capture := b }
  | _, _ => u

/-- NOTICE_CONFIG, code 0x0E (R185). -/
def execNoticeConfig (sp : SupPort) (args : List Byte) (s : State) : Host.Outcome State Fault Refusal :=
  .next <| s.answered sp 0x0E#8 <|
    match args with
    | [kind, setting] => named 1 (noticeKindArg kind) fun k => named 2 (settingArg k setting) fun x =>
        .done ((Event.start s).setUnit sp ((s.units.get sp).configure k x))
          (.noticeConfig k x (s.units.get sp).latched.length)
    | _ => badLength

/-- COUNTERS_CLEAR, code 0x54 (R190). -/
def execCountersClear (sp : SupPort) (args : List Byte) (s : State) : Host.Outcome State Fault Refusal :=
  .next <| s.answered sp 0x54#8 <| s.holderOnly sp <|
    match args with
    | [p] => below 24 1 p.toNat fun p =>
        .done ((Event.start s).modPort p fun x => { x with counters := .fill 0 }) .empty
    | _ => badLength

end Sys2Proof.Machine
end

