-- ==== Sys2Proof/Machine/OutputCommands.lean ====
section
/-! DEFINITION. The meanings of the commands that set an output: weights, express bucket, hold limit and thresholds
(chapters 6, 7 and 8). -/

namespace Sys2Proof.Machine

open Sys2Proof

/-- The arbiter of output `o` changed by `f`. -/
def Event.modArbiter (c : Event) (o : PortId) (f : Arbiter → Arbiter) : Event :=
  c.modPort o fun x => { x with arbiter := f x.arbiter }

/-- WEIGHT_STAGE, code 0x40 (R116): only the pending weight is written. -/
def execWeightStage (sp : SupPort) (args : List Byte) (s : State) : Host.Outcome State Fault Refusal :=
  .next <| s.answered sp 0x40#8 <| s.holderOnly sp <|
    match args with
    | [o, i, w] => below 24 1 o.toNat fun o => below 24 2 i.toNat fun i =>
        let w' := clampTop 63 w.toNat
        let a := (s.port o).arbiter
        .done ((Event.start s).modArbiter o fun a => { a with staged := a.staged.put i w' })
          (.weight w' (a.weight.get i) (a.allowance.get i))
    | _ => badLength

/-- WEIGHT_STAGE_ROW, code 0x41 (R117): one output byte and 24 weight bytes. -/
def execWeightStageRow (sp : SupPort) (args : List Byte) (s : State) : Host.Outcome State Fault Refusal :=
  .next <| s.answered sp 0x41#8 <| s.holderOnly sp <|
    match args with
    | o :: ws =>
      if ws.length = 24 then below 24 1 o.toNat fun o =>
        let row : Table Nat 24 := .ofFn fun i => clampTop 63 (byteAt ws i.val).toNat
        .done ((Event.start s).modArbiter o fun a => { a with staged := row }) (.row row)
      else badLength
    | [] => badLength

/-- EXPRESS_SET, code 0x42 (R115): the rate is clamped to 256, the burst into 1..16, and a level above the new cap is
brought down to it. -/
def execExpressSet (sp : SupPort) (args : List Byte) (s : State) : Host.Outcome State Fault Refusal :=
  .next <| s.answered sp 0x42#8 <| s.holderOnly sp <|
    match args with
    | [o, rHi, rLo, b] => below 24 1 o.toNat fun o =>
        let r' := clampTop 256 (arg16 rHi rLo)
        let b' := clampRange 1 16 b.toNat
        let level := min (s.port o).arbiter.level (256 * b')
        .done ((Event.start s).modArbiter o fun a => { a with rate := r', burst := b', level := level })
          (.express r' b' level)
    | _ => badLength

/-- HOLD_LIMIT, code 0x43 (R136): a timer already running keeps the limit it was started with. -/
def execHoldLimit (sp : SupPort) (args : List Byte) (s : State) : Host.Outcome State Fault Refusal :=
  .next <| s.answered sp 0x43#8 <| s.holderOnly sp <|
    match args with
    | [o, code] => below 24 1 o.toNat fun o => named 2 (holdLimitArg code) fun l =>
        .done ((Event.start s).modPort o fun x => { x with tx := { x.tx with limit := l } })
          (.holdLimit l (s.port o).tx.state (s.port o).tx.timer)
    | _ => badLength

/-- TL as applied (R144): 0 when the monitor is off, otherwise at most TH − 1. -/
def lowThreshold (th tl : Nat) : Nat := if th = 0 then 0 else min tl (th - 1)

/-- THRESHOLDS, code 0x44 (R144): both thresholds are written and the flag is evaluated. -/
def execThresholds (sp : SupPort) (args : List Byte) (s : State) : Host.Outcome State Fault Refusal :=
  .next <| s.answered sp 0x44#8 <| s.holderOnly sp <|
    match args with
    | [o, thHi, thLo, tlHi, tlLo] => below 24 1 o.toNat fun o =>
        let th := clampTop 1023 (arg16 thHi thLo)
        let tl := lowThreshold th (arg16 tlHi tlLo)
        let c := ((Event.start s).modPort o fun x =>
          { x with monitor := { x.monitor with th := th, tl := tl } }).evaluate o
        .done c (.thresholds th tl (c.port o).monitor.waiting (c.port o).monitor.flag)
    | _ => badLength

end Sys2Proof.Machine
end

