-- ==== Sys2Proof/Machine/PortCommands.lean ====
section
/-! DEFINITION. The meanings of the commands that set a port: PORT_ADMIN, PORT_RESET, PORT_RESYNC, LINK_PARAMS and the
guard commands (chapters 1, 2, 3 and 9). -/

namespace Sys2Proof.Machine

open Sys2Proof

/-! ### PORT_ADMIN (R158 to R161) -/

/-- The data of a PORT_ADMIN response (R158): the state before and after, whether a credit issue took place and the epoch
after, whether a drain was completed, and the link state and availability after. -/
def adminData (s : State) (c : Event) (p : PortId) (issued drained : Bool) : RespData :=
  .portAdmin (s.port p).admin (c.port p).admin issued (c.port p).epoch drained (c.port p).rx.link (c.port p).available

/-- ENABLE (R159): from DISABLED or DRAINING the port becomes ENABLED, with a credit issue if its link is UP; from DISABLED
the congestion update becomes pending with it (R130), and the arbiter of its output checks for a pick (R157). -/
def Event.enable (c : Event) (p : PortId) : Event × Bool :=
  let x := c.port p
  match x.admin with
  | .enabled => (c, false)
  | .draining =>
    let e := c.modPort p fun x => { x with admin := .enabled }
    (if x.isUp then e.modPort p Port.issue else e, x.isUp)
  | .disabled =>
    let e := c.modPort p fun x => { x with admin := .enabled }
    let f := if x.isUp then
        e.modPort p fun x =>
          { x.issue with tx := { x.issue.tx with congestionUpdate := true } }
      else e
    (f.pickCheck p, x.isUp)

/-- DRAIN (R160): an ENABLED port becomes DRAINING, its credits are withdrawn, and the drain check is made. -/
def Event.drain (c : Event) (p : PortId) : Event :=
  match (c.port p).admin with
  | .enabled => (c.modPort p fun x => { x.withdraw with admin := .draining }).drainChecks 24 [p]
  | .draining | .disabled => c

/-- DISABLE (R161): the port becomes DISABLED, its credits are withdrawn, and its output becomes unavailable. -/
def Event.disable (c : Event) (p : PortId) : Event :=
  match (c.port p).admin with
  | .enabled | .draining => (c.modPort p fun x => { x.withdraw with admin := .disabled }).outputUnavailable p
  | .disabled => c

/-- The action byte of a PORT_ADMIN row (R158, R173): the row's own action. A byte that names no action is refused at
position 2; a byte that names another action belongs to that action's row. -/
def actionIs (want : AdminState) (b : Byte) : Option Unit := if actionArg b = some want then some () else none

/-- PORT_ADMIN ENABLE, code 0x20 (R158, R159). -/
def execPortAdminEnable (sp : SupPort) (args : List Byte) (s : State) : Host.Outcome State Fault Refusal :=
  .next <| s.answered sp 0x20#8 <| s.holderOnly sp <|
    match args with
    | [p, action] => below 24 1 p.toNat fun p => named 2 (actionIs .enabled action) fun _ =>
        let r := (Event.start s).enable p
        .done r.1 (adminData s r.1 p r.2 false)
    | _ => badLength

/-- PORT_ADMIN DRAIN, code 0x20 (R158, R160). -/
def execPortAdminDrain (sp : SupPort) (args : List Byte) (s : State) : Host.Outcome State Fault Refusal :=
  .next <| s.answered sp 0x20#8 <| s.holderOnly sp <|
    match args with
    | [p, action] => below 24 1 p.toNat fun p => named 2 (actionIs .draining action) fun _ =>
        let c := (Event.start s).drain p
        .done c (adminData s c p false ((s.port p).admin == .enabled && (c.port p).admin == .disabled))
    | _ => badLength

/-- PORT_ADMIN DISABLE, code 0x20 (R158, R161). A DISABLE ends a drain without completion, so "completed a drain" is answered
false. R158 does not say whose drain it means: the model answers for the drain of port `p`, and a drain of another port that
the flush completes is told by its DRAIN_DONE alone (DESIGN CHOICE, assumption 19). -/
def execPortAdminDisable (sp : SupPort) (args : List Byte) (s : State) : Host.Outcome State Fault Refusal :=
  .next <| s.answered sp 0x20#8 <| s.holderOnly sp <|
    match args with
    | [p, action] => below 24 1 p.toNat fun p => named 2 (actionIs .disabled action) fun _ =>
        let c := (Event.start s).disable p
        .done c (adminData s c p false false)
    | _ => badLength

/-! ### PORT_RESET, PORT_RESYNC and LINK_PARAMS -/

/-- The effects of a port reset (R19, R165): the qualifier enters DOWN with the effects of leaving UP if it was UP, the
guard record is cleared, and the port counters are cleared, the flush of this event included (R191). -/
def Event.resetPort (c : Event) (p : PortId) : Event :=
  ((c.enterDown p).clearGuard p).modPort p fun x => { x with counters := .fill 0 }

/-- PORT_RESET, code 0x21 (R165). "Whether a drain completed" is answered for the drain of port `p`: R165 does not say whether
it means a drain of another port that the flush completes too (DESIGN CHOICE, assumption 19). -/
def execPortReset (sp : SupPort) (args : List Byte) (s : State) : Host.Outcome State Fault Refusal :=
  .next <| s.answered sp 0x21#8 <| s.holderOnly sp <|
    match args with
    | [p] => below 24 1 p.toNat fun p =>
        let c := (Event.start s).resetPort p
        .done c (.portReset (s.port p).rx.link (s.port p).isUp (c.port p).admin
          ((s.port p).admin == .draining && (c.port p).admin == .disabled))
    | _ => badLength

/-- PORT_RESYNC, code 0x22 (R58). -/
def execPortResync (sp : SupPort) (args : List Byte) (s : State) : Host.Outcome State Fault Refusal :=
  .next <| s.answered sp 0x22#8 <| s.holderOnly sp <|
    match args with
    | [p] => below 24 1 p.toNat fun p =>
        if (s.port p).lends then
          let c := (Event.start s).modPort p Port.issue
          .done c (.resync true (c.port p).epoch)
        else s.reads (.resync false (s.port p).epoch)
    | _ => badLength

/-- LINK_PARAMS, code 0x23 (R13): H is clamped to 255, Q and F into 1..31. -/
def execLinkParams (sp : SupPort) (args : List Byte) (s : State) : Host.Outcome State Fault Refusal :=
  .next <| s.answered sp 0x23#8 <| s.holderOnly sp <|
    match args with
    | [p, hHi, hLo, q, f] => below 24 1 p.toNat fun p =>
        let h' := clampTop 255 (arg16 hHi hLo)
        let q' := clampRange 1 31 q.toNat
        let f' := clampRange 1 31 f.toNat
        .done ((Event.start s).modPort p fun x => { x with rx := { x.rx with h := h', q := q', f := f' } })
          (.linkParams h' q' f')
    | _ => badLength

/-! ### The guard commands (R40, R41) -/

/-- The state GUARD_SET settles (R40): FREEZE with a fault latched is FROZEN; every other row keeps the state. -/
def Guard.settle (g : Guard) (mode : GuardMode) (tolerate : Bool) : Guard :=
  { g with
    mode := mode, tolerate := tolerate
    state := if mode = .freeze ∧ g.first.isSome = true then .frozen else g.state }

/-- GUARD_SET, code 0x24 (R40). -/
def execGuardSet (sp : SupPort) (args : List Byte) (s : State) : Host.Outcome State Fault Refusal :=
  .next <| s.answered sp 0x24#8 <| s.holderOnly sp <|
    match args with
    | [p, mode, tolerate] => below 24 1 p.toNat fun p => named 2 (guardModeArg mode) fun m =>
        named 3 (tolerateArg tolerate) fun t =>
          let g := (s.port p).guard
          let g' := g.settle m t
          .done (((Event.start s).modPort p fun x => { x with guard := g' }).raiseIf
            (g.state == .normal && g'.state == .frozen) (.frozen p true)) (.guard g')
    | _ => badLength

/-- GUARD_RESUME, code 0x25 (R41). -/
def execGuardResume (sp : SupPort) (args : List Byte) (s : State) : Host.Outcome State Fault Refusal :=
  .next <| s.answered sp 0x25#8 <| s.holderOnly sp <|
    match args with
    | [p] => below 24 1 p.toNat fun p =>
        let c := (Event.start s).clearGuard p
        .done c (.guard (c.port p).guard)
    | _ => badLength

end Sys2Proof.Machine
end

