-- ==== Sys2Proof/Machine/Reads.lean ====
section
/-! DEFINITION. The meanings of the reading commands, of a record the command unit cannot name, and of an abandoned
transaction. Every read is taken from either port, changes no state, and returns the state as it stands (R172). -/

namespace Sys2Proof.Machine

open Sys2Proof

/-- What STATUS gives of a port (R174). -/
def Port.summary (p : Port) : PortSummary :=
  { link := p.rx.link, admin := p.admin, tx := p.tx.state, available := p.available }

/-- STATUS, code 0x01 (R174). -/
def execStatus (sp : SupPort) (args : List Byte) (s : State) : Host.Outcome State Fault Refusal :=
  .next <| s.answered sp 0x01#8 <|
    match args with
    | [] => s.reads <| .status sp s.master (allPorts.map fun p => (s.port p).summary) s.congestionMap
        (s.units.get sp).latched.length (s.units.get sp).alarm
    | _ => badLength

/-- The position in its list of the entry whose copy is the cell in service of `o` (R175). -/
def State.servedPosition (s : State) (o : PortId) : Option Nat :=
  match (s.port o).tx.service with
  | some { src := .copy i, .. } => (s.port i).copies.findIdx? fun e => e.inService.has o
  | _ => none

/-- The data of PORT_READ (R175, R122). -/
def State.portData (s : State) (p : PortId) : PortReadData :=
  let x := s.port p
  { rx := x.rx, admin := x.admin, epoch := x.epoch, guard := x.guard, tx := x.tx.state, service := x.tx.service
    entry := s.servedPosition p, timer := x.tx.timer, limit := x.tx.limit, congestionUpdate := x.tx.congestionUpdate
    resyncWord := x.tx.resyncWord, wordOwed := x.tx.wordOwed, spacing := x.tx.spacing, available := x.available }

/-- PORT_READ, code 0x02 (R175). -/
def execPortRead (sp : SupPort) (args : List Byte) (s : State) : Host.Outcome State Fault Refusal :=
  .next <| s.answered sp 0x02#8 <|
    match args with
    | [p] => below 24 1 p.toNat fun p => s.reads (.port (s.portData p))
    | _ => badLength

/-- The head of X(i, o, c) is in service on the transmitter of `o` (R46). -/
def State.headInService (s : State) (i o : PortId) (c : Class) : Bool :=
  match (s.port o).tx.service with
  | some v => v.src == .cell i c
  | none => false

/-- What QUEUE_READ gives of a queue, from the head (R48). -/
def State.queueItems (s : State) (i o : PortId) (c : Class) : List QueueItem :=
  match (s.port i).queue o c with
  | [] => []
  | e :: es =>
    { flow := e.flow, plane := e.plane, restart := e.restart, inService := s.headInService i o c } ::
      es.map fun e => { flow := e.flow, plane := e.plane, restart := e.restart, inService := false }

/-- QUEUE_READ, code 0x03 (R48). -/
def execQueueRead (sp : SupPort) (args : List Byte) (s : State) : Host.Outcome State Fault Refusal :=
  .next <| s.answered sp 0x03#8 <|
    match args with
    | [i, o] => below 24 1 i.toNat fun i => below 24 2 o.toNat fun o =>
        s.reads (.queue (s.queueItems i o .express) (s.queueItems i o .bulk))
    | _ => badLength

/-- The outputs of an entry's in-service set whose copy waits aborted (R98). -/
def State.abortedOutputs (s : State) (e : CopyEntry) : OutSet :=
  OutSet.ofPred fun o => e.inService.has o && ((s.port o).tx.service.map (·.aborted)).getD false

/-- What REPLICATION_READ gives of an entry (R98). -/
def State.copyItem (s : State) (e : CopyEntry) : CopyItem :=
  { group := e.group, cls := e.cls, remaining := e.remaining, inService := e.inService
    aborted := s.abortedOutputs e, flow := e.flow, plane := e.plane }

/-- REPLICATION_READ, code 0x04 (R98). -/
def execReplicationRead (sp : SupPort) (args : List Byte) (s : State) : Host.Outcome State Fault Refusal :=
  .next <| s.answered sp 0x04#8 <|
    match args with
    | [i] => below 24 1 i.toNat fun i => s.reads (.replication ((s.port i).copies.map s.copyItem))
    | _ => badLength

/-- What CREDIT_READ gives of a key (R64). -/
def Port.keyCounts (p : Port) (k : Key) : KeyCounts :=
  { occupancy := p.occupancy k, outstanding := p.account.outstanding.get k, pending := p.account.pending.get k }

/-- CREDIT_READ, code 0x05 (R64). -/
def execCreditRead (sp : SupPort) (args : List Byte) (s : State) : Host.Outcome State Fault Refusal :=
  .next <| s.answered sp 0x05#8 <|
    match args with
    | [p] => below 24 1 p.toNat fun p =>
        let x := s.port p
        s.reads (.credit x.epoch x.account.resyncPending x.account.inFlight (allKeys.map x.keyCounts)
          x.account.returnList)
    | _ => badLength

/-- GROUP_READ, code 0x06 (R82). -/
def execGroupRead (sp : SupPort) (args : List Byte) (s : State) : Host.Outcome State Fault Refusal :=
  .next <| s.answered sp 0x06#8 <|
    match args with
    | [setHi, setLo, way] => below 256 1 (arg16 setHi setLo) fun set => below 4 2 way.toNat fun w =>
        let g := s.groups.get set
        s.reads (.group (g.ways.get w) ((g.ways.get w).tag * 256 + set.val) g.tree)
    | _ => badLength

/-- GROUP_PROBE, code 0x07 (R83): the test of a lookup, moving nothing. -/
def execGroupProbe (sp : SupPort) (args : List Byte) (s : State) : Host.Outcome State Fault Refusal :=
  .next <| s.answered sp 0x07#8 <|
    match args with
    | [gHi, gLo, cls] => below 4096 1 (arg16 gHi gLo) fun id => named 2 (classArg cls) fun c =>
        let g := s.groups.get (groupSet id.val)
        s.reads (.probe ((g.hit (groupTag id.val) c).map fun w =>
          { way := w, fanout := (g.ways.get w).fanout, hits := (g.ways.get w).hits }) g.tree)
    | _ => badLength

/-- ARBITER_READ, code 0x08 (R120). -/
def execArbiterRead (sp : SupPort) (args : List Byte) (s : State) : Host.Outcome State Fault Refusal :=
  .next <| s.answered sp 0x08#8 <|
    match args with
    | [o] => below 24 1 o.toNat fun o => s.reads (.arbiter (s.port o).arbiter)
    | _ => badLength

/-- MONITOR_READ, code 0x09 (R145): the three parts are computed as it is taken (R139). -/
def execMonitorRead (sp : SupPort) (args : List Byte) (s : State) : Host.Outcome State Fault Refusal :=
  .next <| s.answered sp 0x09#8 <|
    match args with
    | [o] => below 24 1 o.toNat fun o =>
        let m := (s.port o).monitor
        s.reads (.monitor m.waiting (s.cellsToward o .express) (s.cellsToward o .bulk) (s.copiesToward o) m.th m.tl
          m.flag s.congestionMap)
    | _ => badLength

/-- METER_READ, code 0x0A (R154). -/
def execMeterRead (sp : SupPort) (args : List Byte) (s : State) : Host.Outcome State Fault Refusal :=
  .next <| s.answered sp 0x0A#8 <|
    match args with
    | [m] => below 8 1 m.toNat fun m => s.reads (.meter (s.meters.get m))
    | _ => badLength

/-- COUNTERS_READ, code 0x0B (R190). -/
def execCountersRead (sp : SupPort) (args : List Byte) (s : State) : Host.Outcome State Fault Refusal :=
  .next <| s.answered sp 0x0B#8 <|
    match args with
    | [p] => below 24 1 p.toNat fun p => s.reads (.counters (s.port p).counters)
    | _ => badLength

/-- The management port after select has risen early (R168). Before the record is complete, the partial record is discarded and
no response is produced, nor one of an earlier transaction returned. After it, the response not fully shifted out is lost, and
no later transaction returns it. -/
def SpiPort.selectRises (_p : SpiPort) : SpiPort := { record := [], response := none }

/-- TRANSACTION_ABANDONED (R168): select rises early on port `sp`. Before the record is complete no command is taken and no state
changes; after it the command has been taken as a row of its own, and its effects stand (assumption 6). -/
def execTransactionAbandoned (sp : SupPort) (s : State) : Host.Outcome State Fault Refusal :=
  .next { s with spi := s.spi.put sp (s.spi.get sp).selectRises }

/-- UNKNOWN_COMMAND (R171, tests 1 and 2): a complete record whose check fails is answered BAD_ARGUMENT with data 0xFF and
code 0x00 echoed; one whose code names no command is answered UNKNOWN_COMMAND. A record that is not complete, or that
names a command, is not this event (assumption 2). -/
def execUnknownCommand (sp : SupPort) (record : List Byte) (s : State) : Host.Outcome State Fault Refusal :=
  if recordComplete record then
    if checkPasses record = false then
      .next (s.answered sp 0x00#8 (.deny .badArgument (.badArgument 0xFF#8)))
    else if byteAt record 0 ∈ commandCodes then .next s
    else .next (s.answered sp (byteAt record 0) (.deny .unknownCommand .empty))
  else .next s

end Sys2Proof.Machine
end

