-- ==== Sys2Proof/Machine/Resets.lean ====
section
/-! DEFINITION. The meanings of the two resets of the whole part: power-up reset and FABRIC_RESET. -/

namespace Sys2Proof.Machine

open Sys2Proof

/-- POWER_UP_RESET (R22): every block starts from its power-up values; the commands that wait stay in the model's queue. -/
def execPowerUpReset (s : State) : Host.Outcome State Fault Refusal :=
  .next { State.reset with pending := s.pending }

/-! ### FABRIC_RESET (R183) -/

/-- The transmitter under fabric reset (R137): IDLE if the link is UP, otherwise DOWN; the hold timer stopped; the cell in
service cleared, closed with an abort mark if it is on the link. -/
def Transmitter.fabricReset (up : Bool) (t : Transmitter) : Transmitter :=
  { t.abortCell with state := if up then .idle else .down, service := none, timer := none }

/-- The arbiter under fabric reset (R121). -/
def Arbiter.fabricReset (a : Arbiter) : Arbiter :=
  { a with
    allowance := .fill 0, bulkPtr := 23, sparePtr := 23, expressPtr := 23, turn := .fill .unicast, level := 0
    rounds := 0#32 }

/-- The account under fabric reset, before the credit issue (R63, R65): a port that is not UP and ENABLED stands at 0, and a
credit word in flight is void. -/
def Account.fabricReset (a : Account) : Account :=
  { outstanding := .fill 0, pending := .fill 0, returnList := [], resyncPending := false, inFlight := a.voided }

/-- A port under fabric reset, but for its congestion flag and its credit issue (R43, R63, R99, R121, R137, R146, R166,
R191). -/
def Port.fabricReset (p : Port) : Port :=
  { p with
    guard := { p.guard with state := .normal, first := none, count := 0 }
    account := p.account.fabricReset
    queues := .fill []
    copies := []
    arbiter := p.arbiter.fabricReset
    tx := p.tx.fabricReset p.isUp
    monitor := { p.monitor with waiting := 0 }
    admin := if p.admin = .draining then .disabled else p.admin
    counters := .fill 0 }

/-- A meter under fabric reset (R155). -/
def Meter.fabricReset (m : Meter) : Meter := { m with running := false, count := 0, snapshot := 0, seen := 0 }

/-- The notices that fabric reset raises for a port besides CONGESTION: the falls of FROZEN and STALL and a DRAIN_DONE
(R43, R137, R166). -/
def Event.fabricNotices (c : Event) (p : PortId) (x : Port) : Event :=
  ((c.raiseIf (x.guard.state == .frozen) (.frozen p false)).raiseIf (x.tx.state == .stalled) (.stall p false)).raiseIf
    (x.admin == .draining) (.drainDone p)

/-- The credit issue of fabric reset, made for a port that is UP and ENABLED after it (R63). -/
def Port.issueIfLending (p : Port) : Port := if p.lends then p.issue else p

/-- The effects of FABRIC_RESET (R183), as one event: the blocks are reset, the congestion flags are evaluated at a waiting
count of 0 (R146), and the credit issues are made against the emptied store (R63). -/
def Event.fabricReset (c : Event) : Event :=
  let cleared : Event :=
    { c with ports := c.ports.map Port.fabricReset, meters := c.meters.map Meter.fabricReset }
  let told := allPorts.foldl (fun e p => e.fabricNotices p (c.port p)) cleared
  let evaluated := allPorts.foldl (fun e o => e.evaluate o) told
  { evaluated with ports := evaluated.ports.map Port.issueIfLending }

/-- FABRIC_RESET, code 0x61 (R183). Its data lists the ports with a credit issue and the ports taken from DRAINING to
DISABLED. -/
def execFabricReset (sp : SupPort) (args : List Byte) (s : State) : Host.Outcome State Fault Refusal :=
  .next <| s.answered sp 0x61#8 <| s.holderOnly sp <|
    match args with
    | [] =>
      let c := (Event.start s).fabricReset
      .done c (.fabricReset (allPorts.filter fun p => (c.port p).lends)
        (allPorts.filter fun p => (s.port p).admin == .draining))
    | _ => badLength

end Sys2Proof.Machine
end

