-- ==== Sys2Proof/Machine/Dispatch.lean ====
section
/-! DEFINITION. One arm for each command of the table, each one direct call of the command's own meaning. -/

namespace Sys2Proof.Machine

def exec (i : Instr) (s : State) : Host.Outcome State Fault Refusal :=
  match i with
  | .powerUpReset => Sys2Proof.Machine.execPowerUpReset s
  | .lockAcquired p => Sys2Proof.Machine.execLockAcquired p s
  | .lockLost p cut => Sys2Proof.Machine.execLockLost p cut s
  | .markerReceived p word => Sys2Proof.Machine.execMarkerReceived p word s
  | .hold p => Sys2Proof.Machine.execHold p s
  | .release p => Sys2Proof.Machine.execRelease p s
  | .idleReceived p => Sys2Proof.Machine.execIdleReceived p s
  | .controlErrorWord p => Sys2Proof.Machine.execControlErrorWord p s
  | .wordDropped p => Sys2Proof.Machine.execWordDropped p s
  | .abortedCell p => Sys2Proof.Machine.execAbortedCell p s
  | .cellReceptionComplete p data closed => Sys2Proof.Machine.execCellReceptionComplete p data closed s
  | .unitBoundary o => Sys2Proof.Machine.execUnitBoundary o s
  | .departure o => Sys2Proof.Machine.execDeparture o s
  | .creditWordCompletion o => Sys2Proof.Machine.execCreditWordCompletion o s
  | .resyncCompletion o => Sys2Proof.Machine.execResyncCompletion o s
  | .congestionWordCompletion o => Sys2Proof.Machine.execCongestionWordCompletion o s
  | .holdTimerExpiry o => Sys2Proof.Machine.execHoldTimerExpiry o s
  | .mastershipTimerExpiry => Sys2Proof.Machine.execMastershipTimerExpiry s
  | .transactionAbandoned sp => Sys2Proof.Machine.execTransactionAbandoned sp s
  | .unknownCommand sp record => Sys2Proof.Machine.execUnknownCommand sp record s
  | .status sp args => Sys2Proof.Machine.execStatus sp args s
  | .portRead sp args => Sys2Proof.Machine.execPortRead sp args s
  | .queueRead sp args => Sys2Proof.Machine.execQueueRead sp args s
  | .replicationRead sp args => Sys2Proof.Machine.execReplicationRead sp args s
  | .creditRead sp args => Sys2Proof.Machine.execCreditRead sp args s
  | .groupRead sp args => Sys2Proof.Machine.execGroupRead sp args s
  | .groupProbe sp args => Sys2Proof.Machine.execGroupProbe sp args s
  | .arbiterRead sp args => Sys2Proof.Machine.execArbiterRead sp args s
  | .monitorRead sp args => Sys2Proof.Machine.execMonitorRead sp args s
  | .meterRead sp args => Sys2Proof.Machine.execMeterRead sp args s
  | .countersRead sp args => Sys2Proof.Machine.execCountersRead sp args s
  | .noticesRead sp args => Sys2Proof.Machine.execNoticesRead sp args s
  | .noticesClear sp args => Sys2Proof.Machine.execNoticesClear sp args s
  | .noticeConfig sp args => Sys2Proof.Machine.execNoticeConfig sp args s
  | .claim sp args => Sys2Proof.Machine.execClaim sp args s
  | .relinquish sp args => Sys2Proof.Machine.execRelinquish sp args s
  | .keepalive sp args => Sys2Proof.Machine.execKeepalive sp args s
  | .portAdminEnable sp args => Sys2Proof.Machine.execPortAdminEnable sp args s
  | .portAdminDrain sp args => Sys2Proof.Machine.execPortAdminDrain sp args s
  | .portAdminDisable sp args => Sys2Proof.Machine.execPortAdminDisable sp args s
  | .portReset sp args => Sys2Proof.Machine.execPortReset sp args s
  | .portResync sp args => Sys2Proof.Machine.execPortResync sp args s
  | .linkParams sp args => Sys2Proof.Machine.execLinkParams sp args s
  | .guardSet sp args => Sys2Proof.Machine.execGuardSet sp args s
  | .guardResume sp args => Sys2Proof.Machine.execGuardResume sp args s
  | .groupInstall sp args => Sys2Proof.Machine.execGroupInstall sp args s
  | .groupRemove sp args => Sys2Proof.Machine.execGroupRemove sp args s
  | .groupRemoveId sp args => Sys2Proof.Machine.execGroupRemoveId sp args s
  | .groupFlush sp args => Sys2Proof.Machine.execGroupFlush sp args s
  | .weightStage sp args => Sys2Proof.Machine.execWeightStage sp args s
  | .weightStageRow sp args => Sys2Proof.Machine.execWeightStageRow sp args s
  | .expressSet sp args => Sys2Proof.Machine.execExpressSet sp args s
  | .holdLimit sp args => Sys2Proof.Machine.execHoldLimit sp args s
  | .thresholds sp args => Sys2Proof.Machine.execThresholds sp args s
  | .meterSet sp args => Sys2Proof.Machine.execMeterSet sp args s
  | .meterStart sp args => Sys2Proof.Machine.execMeterStart sp args s
  | .meterStop sp args => Sys2Proof.Machine.execMeterStop sp args s
  | .meterCapture sp args => Sys2Proof.Machine.execMeterCapture sp args s
  | .countersClear sp args => Sys2Proof.Machine.execCountersClear sp args s
  | .timerPeriod sp args => Sys2Proof.Machine.execTimerPeriod sp args s
  | .fabricReset sp args => Sys2Proof.Machine.execFabricReset sp args s

end Sys2Proof.Machine
end

