-- ==== Sys2Proof/Machine/Meeting.lean ====
section
/-! DEFINITION. Two events that meet at the arbiter of an output (section 6.7) or at the mastership unit (section 10.6): either
order may be taken, and the one taken first decides what becomes of the other. -/

namespace Sys2Proof.Machine

open Sys2Proof

/-- The command restarts a mastership timer that runs (R177, R179): a restarting B from the holder, or a takeover. -/
def State.restartsTimer (s : State) : Instr → Bool
  | .keepalive sp [token] =>
    s.master.holder == some sp && (tokenArg token).any fun t => (s.master.token t).2
  | .claim sp [] => s.master.grants sp && s.master.holder.isSome
  | _ => false

/-- Two events, each taken whole, `first` before `second`. -/
def execInTurn (first second : Instr) (s : State) : Host.Outcome State Fault Refusal :=
  match exec first s with
  | .next t => exec second t
  | .fault f => .fault f
  | .refused r => .refused r

/-- The completion on output `o` and a `second` event that makes `o` unavailable, the completion taken first (R114): the cell
departs and the bucket is refilled, and no pick is made. Absent where no cell departs, or where `second` is no such event. -/
def execCompletionThen (o : PortId) (second : Instr) (s : State) : Option State :=
  (s.port o).tx.sendingCell.bind fun src =>
    let t := ((Event.start s).complete o src).finish
    match exec second t with
    | .next u => if (t.port o).available = true ∧ (u.port o).available = false then some u else none
    | .fault _ | .refused _ => none

/-- Two events that meet, `first` taken first. Each is taken whole, but for two meetings. A completion on an output makes no
pick where the second makes the output unavailable (R114). And an expiry of the mastership timer does not happen where the
first has restarted the timer, since the run that it would have ended is over (R182). -/
def execTogether (first second : Instr) (s : State) : Host.Outcome State Fault Refusal :=
  match first with
  | .departure o =>
    match execCompletionThen o second s with
    | some u => .next u
    | none => execInTurn first second s
  | _ =>
    if second = .mastershipTimerExpiry ∧ s.restartsTimer first = true then exec first s else execInTurn first second s

end Sys2Proof.Machine
end

