-- ==== Sys2Proof/Safety.lean ====
section
/-! DEFINITION. What a lawful state is: the laws that the manual says hold at every event, each as a predicate of its own
over the state, so that a statement can name the ones it rests on. -/

namespace Sys2Proof.Safety

open Sys2Proof Sys2Proof.Machine

/-- R9 to R12: the receiver is unlocked exactly in DOWN; DOWN has every count at 0, and the bad count is 0 outside UP; the
counts and parameters keep their ranges. -/
def ReceiverLaw (r : Receiver) : Prop :=
  (r.locked = true ↔ r.link ≠ .down) ∧
  (r.link = .down → r.holdoff = 0 ∧ r.good = 0) ∧
  (r.link ≠ .up → r.bad = 0) ∧
  (r.link = .qualifying → r.good < 31) ∧
  r.holdoff ≤ 255 ∧ r.good ≤ 31 ∧ r.bad < 31 ∧
  r.h ≤ 255 ∧ (1 ≤ r.q ∧ r.q ≤ 31) ∧ (1 ≤ r.f ∧ r.f ≤ 31)

/-- R37 to R41: a FROZEN guard has a fault latched, and in the FREEZE mode a latched fault means FROZEN; the fault count is
0 exactly when no fault is latched, and at most 255. -/
def GuardLaw (g : Guard) : Prop :=
  (g.state = .frozen → g.first.isSome = true) ∧
  (g.mode = .freeze → g.first.isSome = true → g.state = .frozen) ∧
  (g.first = none ↔ g.count = 0) ∧ g.count ≤ 255

/-- R101, R112, R115, R118: weights 0..63, each allowance at most its weight, the rate 0..256, the burst 1..16, and the level
at most 256 × B. -/
def ArbiterLaw (a : Arbiter) : Prop :=
  (∀ i, a.weight.get i ≤ 63 ∧ a.staged.get i ≤ 63 ∧ a.allowance.get i ≤ a.weight.get i) ∧
  a.rate ≤ 256 ∧ (1 ≤ a.burst ∧ a.burst ≤ 16) ∧ a.level ≤ 256 * a.burst

/-- R141, R144: a set flag has the waiting count above TL, a clear flag has it below TH; an off monitor's flag is clear and
its TL 0; TH is at most 1023 and TL below TH. -/
def MonitorLaw (m : Monitor) : Prop :=
  m.th ≤ 1023 ∧
  (m.th = 0 → m.tl = 0 ∧ m.flag = false) ∧
  (m.th ≠ 0 → m.tl < m.th ∧ (m.flag = true → m.tl < m.waiting) ∧ (m.flag = false → m.waiting < m.th))

/-- R184, R186: a latched set holds no pair twice and only pairs that exist, and the alarm line is asserted exactly while it
is not empty. -/
def NoticeLaw (u : NoticeUnit) : Prop :=
  u.latched.Nodup ∧ (∀ x ∈ u.latched, x.index < x.kind.indices) ∧ (u.alarm = true ↔ u.latched ≠ []) ∧
  u.evictSet < 256

/-- R176: while the holder is NONE the health is HEALTHY, the pointer EXPECT_A, the armed flag clear and the timer stopped;
while a port holds mastership the timer runs; the armed flag is set only while the pointer is EXPECT_B. -/
def MasterLaw (m : Mastership) : Prop :=
  (m.holder = none → m.health = .healthy ∧ m.pointer = .expectA ∧ m.armed = false ∧ m.timer = none) ∧
  (m.holder ≠ none → m.timer ≠ none) ∧
  (m.armed = true → m.pointer = .expectB)

/-- R73: no two valid entries of a set have equal tags and overlapping selectors. -/
def GroupLaw (g : GroupSet) : Prop :=
  ∀ v w, v ≠ w → (g.ways.get v).valid = true → (g.ways.get w).valid = true →
    (g.ways.get v).tag = (g.ways.get w).tag → (g.ways.get v).sel.overlaps (g.ways.get w).sel = false

/-- R147: a STOPPED meter has a count and an interval counter of 0; the counts keep their ranges. -/
def MeterLaw (m : Meter) : Prop :=
  (m.running = false → m.count = 0 ∧ m.seen = 0) ∧ m.count < 4294967296 ∧ m.snapshot < 4294967296 ∧
  m.interval < 65536 ∧ (m.interval = 0 → m.seen = 0) ∧ (m.interval ≠ 0 → m.seen < m.interval)

/-- R51: the credit return list holds exactly the keys whose pending count is above 0, each once. -/
def ReturnLaw (a : Account) : Prop :=
  a.returnList.Nodup ∧ ∀ k, k ∈ a.returnList ↔ a.pending.get k ≠ 0

/-- R49, R59: a port that is not UP and ENABLED lends nothing: its counts are 0, its list is empty, its resync-pending flag
clear, and a credit word still on the link is void (R54). -/
def WithdrawnLaw (p : Port) : Prop :=
  p.lends = false →
    (∀ k, p.account.outstanding.get k = 0 ∧ p.account.pending.get k = 0) ∧ p.account.returnList = [] ∧
    p.account.resyncPending = false ∧ ∀ w ∈ p.account.inFlight, w.void = true

/-- R53: the counts of an unvoided credit word are covered by the pending counts of its keys, which it names once each. -/
def WordLaw (a : Account) : Prop :=
  ∀ w ∈ a.inFlight, w.void = false →
    (w.entries.map Prod.fst).Nodup ∧ ∀ x ∈ w.entries, x.2 ≤ a.pending.get x.1

/-- R49, the conservation law: while a port is UP and ENABLED, occupancy, outstanding and pending sum to the capacity of
every key. -/
def CreditLaw (p : Port) : Prop :=
  p.lends = true → ∀ k, p.occupancy k + p.account.outstanding.get k + p.account.pending.get k = capacity k

/-- R44, R49, R86: no queue holds more than its key's capacity. -/
def CapacityLaw (p : Port) : Prop := ∀ k, p.occupancy k ≤ capacity k

/-- R87, R89: every entry has a non-empty remaining set, its in-service set is a subset of it, and its payload has 72
bytes. -/
def CopyLaw (e : CopyEntry) : Prop :=
  e.remaining ≠ OutSet.empty ∧ (∀ o, e.inService.has o = true → e.remaining.has o = true) ∧ e.payload.length = 72

/-- R44: an entry stands in a queue of its own class, with a payload of 72 bytes. -/
def QueueLaw (p : Port) : Prop :=
  ∀ o, (∀ e ∈ p.queue o .bulk, e.cls = .bulk ∧ e.payload.length = 72) ∧
    ∀ e ∈ p.queue o .express, e.cls = .express ∧ e.payload.length = 72

/-- R62, R95: no crosspoint queue and no remaining set holds anything for an output that is unavailable. -/
def UnavailableLaw (s : State) : Prop :=
  ∀ o, (s.port o).available = false → ∀ i,
    (s.port i).queue o .bulk = [] ∧ (s.port i).queue o .express = [] ∧ ∀ e ∈ (s.port i).copies, e.remaining.has o = false

/-- R139: the waiting count of an output is the cells toward it and the entries whose remaining set holds it. -/
def WaitingLaw (s : State) : Prop := ∀ o, (s.port o).monitor.waiting = s.owed o

/-- The unit is a cell. -/
def isCell : LinkUnit → Bool
  | .cell _ _ => true
  | .idle | .marker | .resync _ | .congestion _ | .credit _ _ => false

/-- The unit is a CREDIT word. -/
def isCredit : LinkUnit → Bool
  | .credit _ _ => true
  | .idle | .marker | .resync _ | .congestion _ | .cell _ _ => false

/-- R122, R123: the transmitter is DOWN exactly while its link is not UP; a cell is in service exactly in SENDING, unmarked,
and in HELD when a HOLD aborted it; the hold timer runs only in HELD; and a cell is on the link exactly when the cell in
service of a SENDING transmitter has started. -/
def TransmitterLaw (p : Port) : Prop :=
  (p.tx.state = .down ↔ p.rx.link ≠ .up) ∧
  (p.tx.state = .sending → ∃ v ∈ p.tx.service, v.aborted = false) ∧
  (∀ v ∈ p.tx.service, p.tx.state = .sending ∨ p.tx.state = .held ∧ v.aborted = true) ∧
  (p.tx.timer ≠ none → p.tx.state = .held) ∧
  (p.tx.onLink.any isCell = true ↔ p.tx.sendingCell ≠ none)

/-- R128: the marker spacing counter stays in 0..256, and stands at 256 only at a boundary or while a MARKER goes. -/
def SpacingLaw (t : Transmitter) : Prop :=
  t.spacing ≤ 256 ∧ (t.spacing = 256 → t.onLink = none ∨ t.onLink = some .marker)

/-- R1, R124: a cell on an egress link carries a header of 8 bytes and a payload of 72. -/
def CellOnLinkLaw (t : Transmitter) : Prop :=
  ∀ header payload, t.onLink = some (.cell header payload) → header.length = 8 ∧ payload.length = 72

/-- R46: a crosspoint head in service toward `o` stands at the head of a queue that is not empty. -/
def HeadLaw (s : State) (o : PortId) : Prop :=
  ∀ v ∈ (s.port o).tx.service, ∀ i,
    (v.src = .cell i .bulk → (s.port i).queue o .bulk ≠ []) ∧
    (v.src = .cell i .express → (s.port i).queue o .express ≠ [])

/-- R46, R87: the cell in service of an output stands where its transmitter says: at the head of a queue that is not empty,
or in an entry that holds the output in its in-service set; and an output stands in no other in-service set. -/
def ServiceLaw (s : State) : Prop :=
  ∀ o, HeadLaw s o ∧
    (∀ i, ((s.port i).copies.countP fun e => e.inService.has o) =
      if ((s.port o).tx.service.map (·.src)) = some (.copy i) then 1 else 0)

/-- R162: a DRAINING port's input still holds a cell; a drain that finds none is complete. -/
def DrainLaw (p : Port) : Prop := p.admin = .draining → p.holdsNothing = false

/-- R52, R131: the record of a credit word in flight stands exactly while a CREDIT word is on the link, with its epoch and
entries. -/
def FlightLaw (p : Port) : Prop :=
  (∀ w ∈ p.account.inFlight, p.tx.onLink = some (.credit w.epoch w.entries)) ∧
  (p.account.inFlight = none → p.tx.onLink.any isCredit = false)

/-- Every law of one port. -/
def PortLaw (p : Port) : Prop :=
  ReceiverLaw p.rx ∧ GuardLaw p.guard ∧ ArbiterLaw p.arbiter ∧ MonitorLaw p.monitor ∧ ReturnLaw p.account ∧
  WithdrawnLaw p ∧ WordLaw p.account ∧ CreditLaw p ∧ CapacityLaw p ∧ (∀ e ∈ p.copies, CopyLaw e) ∧ QueueLaw p ∧
  TransmitterLaw p ∧ SpacingLaw p.tx ∧ CellOnLinkLaw p.tx ∧ DrainLaw p ∧ FlightLaw p

/-- A lawful state: every law at once. -/
def Lawful (s : State) : Prop :=
  (∀ p, PortLaw (s.port p)) ∧ UnavailableLaw s ∧ WaitingLaw s ∧ ServiceLaw s ∧
  NoticeLaw s.units.sp0 ∧ NoticeLaw s.units.sp1 ∧ MasterLaw s.master ∧ (∀ g, GroupLaw (s.groups.get g)) ∧
  ∀ m, MeterLaw (s.meters.get m)

/-! ### The vocabulary of the statements

What follows names states and parts of states that the statements speak of, each written out from the manual's rule. -/

/-- `s` with port `p` replaced. -/
def withPort (s : State) (p : PortId) (x : Port) : State := { s with ports := s.ports.put p x }

/-- `s` after both notice units have taken the notices of the list, in its order (R184, R186). -/
def notify (s : State) (l : List Notice) : State :=
  { s with
    units := { sp0 := l.foldl NoticeUnit.latch s.units.sp0, sp1 := l.foldl NoticeUnit.latch s.units.sp1 } }

/-- A port number as an argument byte (R173). -/
def portByte (p : PortId) : Byte := BitVec.ofNat 8 p.val

/-- No drain completes between `s` and `t` (R162), but perhaps that of `p` itself: every other port DRAINING before is DRAINING
after. -/
def NoOtherDrainEnds (p : PortId) (s t : State) : Prop :=
  ∀ q, q ≠ p → (s.port q).admin = .draining → (t.port q).admin = .draining

/-- No drain completes between `s` and `t` (R162): every port DRAINING before is DRAINING after. -/
def NoDrainEnds (s t : State) : Prop := ∀ q, (s.port q).admin = .draining → (t.port q).admin = .draining

/-- The congestion flag table of R141. -/
def flagAfter (th tl n : Nat) (flag : Bool) : Bool :=
  if th = 0 then false else if th ≤ n then true else if n ≤ tl then false else flag

/-- The flag of `o` once its waiting count is `n` (R141). -/
def flagAt (s : State) (o : PortId) (n : Nat) : Bool :=
  flagAfter (s.port o).monitor.th (s.port o).monitor.tl n (s.port o).monitor.flag

/-- The transmitter of port `x` when the flag of some output changes (R130, R142). -/
def owed (changes : Bool) (x : Port) : Transmitter :=
  if changes = true ∧ x.rx.link = .up ∧ x.admin ≠ .disabled then { x.tx with congestionUpdate := true } else x.tx

/-- `s` with the waiting count of `o` at `n` and its flag evaluated (R140, R141); a change of the flag owes the map to every
port that is UP and not DISABLED (R142). -/
def waited (s : State) (o : PortId) (n : Nat) : State :=
  { s with
    ports := .ofFn fun q =>
      let x := s.port q
      { x with
        monitor := if q = o then { x.monitor with waiting := n, flag := flagAt s o n } else x.monitor
        tx := owed (flagAt s o n != (s.port o).monitor.flag) x } }

/-- The CONGESTION edge of `o` as its waiting count becomes `n` (R142). -/
def flagEdge (s : State) (o : PortId) (n : Nat) : List Notice :=
  if flagAt s o n = (s.port o).monitor.flag then [] else [.congestion o (flagAt s o n)]

/-- `s` after the arbiter of `o` has made the check of R102. -/
def afterPick (s : State) (o : PortId) : State := ((Event.start s).pickCheck o).toState

/-- The counter `k` of a port raised by 1, saturating (R189). -/
def countedUp (x : Port) (k : Counter) : Table Nat 15 :=
  x.counters.put k.index (min (x.counters.get k.index + 1) 4294967295)

/-- The guard record after a fault of kind `k` (R38). -/
def afterFault (g : Guard) (k : FaultKind) : Guard :=
  if g.first = none then
    { g with first := some k, count := 1, state := if g.mode = .freeze then .frozen else g.state }
  else { g with count := min (g.count + 1) 255 }

/-- The notices of a fault at port `p` whose guard was `g` (R38, R42), in the order of R186. -/
def faultNotices (p : PortId) (g : Guard) : List Notice :=
  if g.first = none then
    if g.mode = .freeze then [.frozen p true, .fault p] else [.fault p]
  else []

/-- The pending count of key `k` raised by 1 where the port is UP and ENABLED (R50). -/
def freedAccount (x : Port) (k : Key) : Account :=
  if x.rx.link = .up ∧ x.admin = .enabled then
    { x.account with pending := x.account.pending.put k (x.account.pending.get k + 1) }
  else x.account

/-- Key `k` of input `i`, under which a place was freed, at the end of the return list unless it is on it (R50, R51). -/
def listed (s : State) (i : PortId) (k : Key) : State :=
  if (s.port i).rx.link = .up ∧ (s.port i).admin = .enabled then
    withPort s i { s.port i with
      account := { (s.port i).account with returnList := joinKey (s.port i).account.returnList k } }
  else s

/-- The departure matches a selector (R148). -/
def selects (m : MeterSel) (d : Departed) : Prop :=
  m = .all ∨ (m = .express ∧ d.cls = .express) ∨ (m = .bulk ∧ d.cls = .bulk) ∨ (m = .multicast ∧ d.copy = true) ∨
    m = .fromInput d.input

/-- The count of a meter that has seen the departure (R148). -/
def meterCount (m : Meter) (d : Departed) : Nat :=
  if m.sel.covers d then
    match m.mode with
    | .wrap => if m.count = 4294967295 then 0 else m.count + 1
    | .saturate => if m.count = 4294967295 then 4294967295 else m.count + 1
  else m.count

/-- A meter after a departure on `o` (R148, R149). -/
def meterAfter (m : Meter) (o : PortId) (d : Departed) : Meter :=
  if m.running = true ∧ m.target = o then
    if m.interval = 0 then { m with count := meterCount m d }
    else if m.seen + 1 = m.interval then { m with snapshot := meterCount m d, count := 0, seen := 0 }
    else { m with count := meterCount m d, seen := m.seen + 1 }
  else m

/-- The CAPTURE notices of a departure on `o` (R149), in the order of R186. -/
def captures (s : State) (o : PortId) : List Notice :=
  (allMeters.filter fun m =>
    (s.meters.get m).running && (s.meters.get m).target == o && (s.meters.get m).interval != 0 &&
      (s.meters.get m).seen + 1 == (s.meters.get m).interval).map .capture

/-- `i` is the first input that satisfies `f` in a scan that starts after `ptr` and ends at `ptr` (R106, R109, R111). -/
def FirstAfter (ptr : PortId) (f : PortId → Bool) (i : PortId) : Prop :=
  f i = true ∧ ∀ j, f j = true → (i - (ptr + 1)).val ≤ (j - (ptr + 1)).val

/-- What input `i` offers to output `o` in the bulk round, by the order of R107. -/
def Offers (s : State) (o i : PortId) (turn : Turn) : Offer → Prop
  | .express => (s.port i).queue o .express ≠ []
  | .bulk =>
    (s.port i).queue o .express = [] ∧ (s.port i).queue o .bulk ≠ [] ∧
      ((s.port i).candidate o = none ∨ turn = .unicast)
  | .copy =>
    (s.port i).queue o .express = [] ∧ (s.port i).candidate o ≠ none ∧
      ((s.port i).queue o .bulk = [] ∨ turn = .multicast)

/-- The alternation flag after a bulk-round or spare pick of the offer (R108). -/
def turnAfter (turn : Turn) : Offer → Turn
  | .express => turn
  | .bulk => .multicast
  | .copy => .unicast

/-- Input `i`, where it is UP and ENABLED, gains under each key the places it lost from `s` to `t` as pending credit, and the
keys join the end of its return list in key order unless they are on it (R50, R51); elsewhere its account is unchanged. -/
def GainsLost (i : PortId) (s t : State) : Prop :=
  (t.port i).account =
    if (s.port i).rx.link = .up ∧ (s.port i).admin = .enabled then
      { (s.port i).account with
        pending := .ofFn fun k => (s.port i).account.pending.get k + ((s.port i).occupancy k - (t.port i).occupancy k)
        returnList := (allKeys.filter fun k => (t.port i).occupancy k < (s.port i).occupancy k).foldl joinKey
          (s.port i).account.returnList }
    else (s.port i).account

/-- An account after a withdrawal (R59): nothing lent, nothing listed, a credit word in flight void. -/
def withdrawn (a : Account) : Account :=
  { outstanding := .fill 0, pending := .fill 0, returnList := [], resyncPending := false
    inFlight := a.inFlight.map fun w => { w with void := true } }

/-- A transmitter whose cell on the link has been closed with an abort mark: the cell has ended (R126, R127, R128). -/
def aborted (t : Transmitter) : Transmitter :=
  { t with onLink := none, closed := some .abortMark, spacing := t.spacing + 1, wordOwed := true }

/-- A transmitter that has dropped its cell in service because its output became unavailable (R126): SENDING goes to IDLE, and
a cell on the link is closed with an abort mark, which ends it (R127, R128). -/
def dropped (t : Transmitter) : Transmitter :=
  if t.service = none then t
  else
    let u := if t.onLink.any isCell then aborted t else t
    { u with service := none, state := if t.state = .sending then .idle else t.state }

/-- The flush and prune of R61 and R95 toward `o`, from `s` to `t`, where no other drain completes: every queue toward `o` is empty
and every other queue kept; every entry that held `o` has lost it and leaves if that empties it; every other port that is UP
and ENABLED gains, under each key, the places it lost as pending credit, the keys joining its list in key order; the
waiting count of `o` falls by what was lost and its flag is evaluated, and no other monitor changes; and nothing else
changes but on port `o` itself. -/
def FlushedToward (o : PortId) (s t : State) : Prop :=
  (∀ i c, (t.port i).queue o c = []) ∧
  (∀ i q c, q ≠ o → (t.port i).queue q c = (s.port i).queue q c) ∧
  (∀ i, (t.port i).copies =
    ((s.port i).copies.map fun e =>
      if e.remaining.has o then { e with remaining := e.remaining.drop o, inService := e.inService.drop o } else e).filter
        fun e => e.remaining != OutSet.empty) ∧
  (∀ i, i ≠ o → GainsLost i s t) ∧
  (t.port o).monitor = { (s.port o).monitor with
    waiting := (s.port o).monitor.waiting - s.owed o
    flag := flagAt s o ((s.port o).monitor.waiting - s.owed o) } ∧
  (∀ i, i ≠ o → (t.port i).rx = (s.port i).rx ∧ (t.port i).admin = (s.port i).admin ∧
    (t.port i).guard = (s.port i).guard ∧ (t.port i).counters = (s.port i).counters ∧ (t.port i).monitor = (s.port i).monitor ∧
    (t.port i).tx =
      owed (flagAt s o ((s.port o).monitor.waiting - s.owed o) != (s.port o).monitor.flag) (s.port i)) ∧
  (∀ i, (t.port i).epoch = (s.port i).epoch ∧ (t.port i).arbiter = (s.port i).arbiter) ∧
  t.groups = s.groups ∧ t.meters = s.meters ∧ t.master = s.master ∧ t.pending = s.pending

/-- The FLUSHED counter of `o` after the flush and prune (R61, R95), from the counters given. -/
def flushedCounters (s : State) (o : PortId) (c : Table Nat 15) : Table Nat 15 :=
  c.put Counter.flushed.index (min (c.get Counter.flushed.index + s.owed o) 4294967295)

/-- The CONGESTION edge that the flush and prune toward `o` bring (R142). -/
def flushEdge (s : State) (o : PortId) : List Notice := flagEdge s o ((s.port o).monitor.waiting - s.owed o)

/-- A port as its link leaves UP, in what the event does to it alone (R9, R10, R20, R59, R54, R123): the unit in transmission
is cut off, a cell by an abort mark and a word short, and has ended (R127, R128; assumption 8). -/
def LeftUp (x y : Port) : Prop :=
  y.rx = { x.rx with locked := false, link := .down, holdoff := 0, good := 0, bad := 0 } ∧
  y.account = { outstanding := .fill 0, pending := .fill 0, returnList := [], resyncPending := false, inFlight := none } ∧
  y.tx.state = .down ∧ y.tx.service = none ∧ y.tx.timer = none ∧ y.tx.limit = x.tx.limit ∧
  y.tx.congestionUpdate = false ∧ y.tx.resyncWord = none ∧ y.tx.onLink = none ∧
  y.tx.closed = (match x.tx.onLink with
    | none => x.tx.closed
    | some (.cell _ _) => some .abortMark
    | some _ => some .short) ∧
  y.tx.spacing = (match x.tx.onLink with
    | none => x.tx.spacing
    | some .marker => 0
    | some _ => x.tx.spacing + 1) ∧
  y.tx.wordOwed = (x.tx.wordOwed || x.tx.onLink.any isCell)

/-- The commands of R173 that are carried out for the holder alone, with their port and code. -/
def holderCommand : Instr → Option (SupPort × Byte)
  | .relinquish sp _ => some (sp, 0x11#8)
  | .keepalive sp _ => some (sp, 0x12#8)
  | .portAdminEnable sp _ => some (sp, 0x20#8)
  | .portAdminDrain sp _ => some (sp, 0x20#8)
  | .portAdminDisable sp _ => some (sp, 0x20#8)
  | .portReset sp _ => some (sp, 0x21#8)
  | .portResync sp _ => some (sp, 0x22#8)
  | .linkParams sp _ => some (sp, 0x23#8)
  | .guardSet sp _ => some (sp, 0x24#8)
  | .guardResume sp _ => some (sp, 0x25#8)
  | .groupInstall sp _ => some (sp, 0x30#8)
  | .groupRemove sp _ => some (sp, 0x31#8)
  | .groupRemoveId sp _ => some (sp, 0x32#8)
  | .groupFlush sp _ => some (sp, 0x33#8)
  | .weightStage sp _ => some (sp, 0x40#8)
  | .weightStageRow sp _ => some (sp, 0x41#8)
  | .expressSet sp _ => some (sp, 0x42#8)
  | .holdLimit sp _ => some (sp, 0x43#8)
  | .thresholds sp _ => some (sp, 0x44#8)
  | .meterSet sp _ => some (sp, 0x50#8)
  | .meterStart sp _ => some (sp, 0x51#8)
  | .meterStop sp _ => some (sp, 0x52#8)
  | .meterCapture sp _ => some (sp, 0x53#8)
  | .countersClear sp _ => some (sp, 0x54#8)
  | .timerPeriod sp _ => some (sp, 0x60#8)
  | .fabricReset sp _ => some (sp, 0x61#8)
  | _ => none

/-- The reading commands of R173 of one length, with their port, code, argument length and arguments. NOTICES_CLEAR, whose
length depends on its count, is not among them. -/
def openCommand : Instr → Option (SupPort × Byte × Nat × List Byte)
  | .status sp a => some (sp, 0x01#8, 0, a)
  | .portRead sp a => some (sp, 0x02#8, 1, a)
  | .queueRead sp a => some (sp, 0x03#8, 2, a)
  | .replicationRead sp a => some (sp, 0x04#8, 1, a)
  | .creditRead sp a => some (sp, 0x05#8, 1, a)
  | .groupRead sp a => some (sp, 0x06#8, 3, a)
  | .groupProbe sp a => some (sp, 0x07#8, 3, a)
  | .arbiterRead sp a => some (sp, 0x08#8, 1, a)
  | .monitorRead sp a => some (sp, 0x09#8, 1, a)
  | .meterRead sp a => some (sp, 0x0A#8, 1, a)
  | .countersRead sp a => some (sp, 0x0B#8, 1, a)
  | .noticesRead sp a => some (sp, 0x0C#8, 0, a)
  | .noticeConfig sp a => some (sp, 0x0E#8, 2, a)
  | .claim sp a => some (sp, 0x10#8, 0, a)
  | _ => none

/-- The argument length of a command that is carried out for the holder alone, with its arguments (R173). -/
def holderLength : Instr → Option (Nat × List Byte)
  | .relinquish _ a => some (0, a)
  | .keepalive _ a => some (1, a)
  | .portAdminEnable _ a => some (2, a)
  | .portAdminDrain _ a => some (2, a)
  | .portAdminDisable _ a => some (2, a)
  | .portReset _ a => some (1, a)
  | .portResync _ a => some (1, a)
  | .linkParams _ a => some (5, a)
  | .guardSet _ a => some (3, a)
  | .guardResume _ a => some (1, a)
  | .groupInstall _ a => some (8, a)
  | .groupRemove _ a => some (3, a)
  | .groupRemoveId _ a => some (2, a)
  | .groupFlush _ a => some (0, a)
  | .weightStage _ a => some (3, a)
  | .weightStageRow _ a => some (25, a)
  | .expressSet _ a => some (4, a)
  | .holdLimit _ a => some (2, a)
  | .thresholds _ a => some (5, a)
  | .meterSet _ a => some (7, a)
  | .meterStart _ a => some (1, a)
  | .meterStop _ a => some (1, a)
  | .meterCapture _ a => some (1, a)
  | .countersClear _ a => some (1, a)
  | .timerPeriod _ a => some (1, a)
  | .fabricReset _ a => some (0, a)
  | _ => none

end Sys2Proof.Safety
end

