-- ==== Sys2Proof/Certificates/Slice0/Obligations.lean ====
section
/-! DEFINITION. The statements. Each says what a command or the part does, from a numbered rule of the manual; the names
they use are those of the model and of Sys2Proof.Safety. -/

section

open Sys2Proof Sys2Proof.Machine Sys2Proof.Safety

/-! ### The machine as a whole -/

/-- A step takes the command at the front of the queue and runs it with the queue's rest; on an empty queue the part idles
(the model's choice, assumption 3). -/
def Obligations.StepRunsTheFrontCommand : Prop :=
  (∀ (c : Instr) (s : State), step { s with pending := c :: s.pending } = exec c s) ∧
  (∀ s : State, s.pending = [] → step s = .next s)

/-- Every command, in every state and with any operands, ends in a next state and leaves the commands that wait. Nothing stops
the part. -/
def Obligations.EveryCommandCompletes : Prop :=
  ∀ (c : Instr) (s : State), ∃ t, exec c s = .next t ∧ t.pending = s.pending

/-- Power-up reset (R22, R43, R65, R85, R100, R121, R138, R146, R155, R166, R176, R191): every block at the value its chapter
gives. The values of `onLink` and `closed`, of the management ports and of the commands that wait are the model's own
(assumption 16). -/
def Obligations.PowerUpResetStartsEveryBlock : Prop :=
  ∀ s : State, ∃ t, exec .powerUpReset s = .next t ∧ t.pending = s.pending ∧
    (∀ p,
      (t.port p).rx =
        { locked := false, link := .down, holdoff := 0, good := 0, bad := 0, h := 16, q := 8, f := 4 } ∧
      (t.port p).epoch = 0#3 ∧
      (t.port p).guard = { mode := .report, tolerate := false, state := .normal, first := none, count := 0 } ∧
      (∀ k, (t.port p).account.outstanding.get k = 0 ∧ (t.port p).account.pending.get k = 0) ∧
      (t.port p).account.returnList = [] ∧ (t.port p).account.resyncPending = false ∧
      (t.port p).account.inFlight = none ∧
      (∀ o c, (t.port p).queue o c = []) ∧ (t.port p).copies = [] ∧
      (∀ i, (t.port p).arbiter.weight.get i = 1 ∧ (t.port p).arbiter.staged.get i = 1 ∧
        (t.port p).arbiter.allowance.get i = 0 ∧ (t.port p).arbiter.turn.get i = .unicast) ∧
      (t.port p).arbiter.bulkPtr = 23 ∧ (t.port p).arbiter.sparePtr = 23 ∧ (t.port p).arbiter.expressPtr = 23 ∧
      (t.port p).arbiter.level = 0 ∧ (t.port p).arbiter.rate = 0 ∧ (t.port p).arbiter.burst = 1 ∧
      (t.port p).arbiter.rounds = 0#32 ∧
      (t.port p).tx.state = .down ∧ (t.port p).tx.service = none ∧ (t.port p).tx.timer = none ∧
      (t.port p).tx.limit = .ms8 ∧ (t.port p).tx.congestionUpdate = false ∧ (t.port p).tx.resyncWord = none ∧
      (t.port p).tx.wordOwed = false ∧ (t.port p).tx.spacing = 256 ∧
      (t.port p).monitor = { waiting := 0, th := 0, tl := 0, flag := false } ∧
      (t.port p).admin = .disabled ∧ (∀ k, (t.port p).counters.get k = 0)) ∧
    (∀ g w, (t.groups.get g).ways.get w =
      { valid := false, tag := 0, sel := .neither, fanout := OutSet.empty, hits := 0 }) ∧
    (∀ g, (t.groups.get g).root = false ∧ (t.groups.get g).l = false ∧ (t.groups.get g).r = false) ∧
    (∀ m, t.meters.get m =
      { target := 0, sel := .all, mode := .wrap, running := false, count := 0, snapshot := 0, interval := 0,
        seen := 0 }) ∧
    t.master =
      { holder := none, health := .healthy, pointer := .expectA, armed := false, timer := none, period := .s1 } ∧
    (∀ sp, t.units.get sp =
      { link := .none, congestion := .none, frozen := .none, stall := .none, fault := false, drainDone := false,
        evict := false, alert := false, change := false, capture := false, latched := [], evictSet := 0,
        alarm := false })

/-- The state after power-up reset is lawful: every law of Sys2Proof.Safety holds of it. -/
def Obligations.ResetStateIsLawful : Prop := Lawful State.reset

/-! ### Layouts (chapters 1 and 10) -/

/-- What the part sends. Every word and every rewritten header is eight bytes that sum to 255 modulo 256 (R2), and a header,
read by the layout of R3, gives back the kind, the class, epoch 0, the input, the group id of a copy and 0 for a unicast
cell, the flow label and the plane sequence (R4), with bits 1..0 of byte 0 and bits 7..4 of byte 2 at 0. Bytes 1 to 6 of a
CREDIT word, as one 48-bit number, hold entry n in bits
47 − 12n to 36 − 12n, key in the upper six bits and count in the lower six, key 63 with count 0 where the word has no such
entry (R6); bytes 1 to 3 of a CONGESTION word are the congestion map (R7); byte 0 of each word is that of R5, and every byte
that its table does not assign is 0. A unit is sent with its start symbol and its data bytes, a cell closed by its end-of-cell
symbol or, after some of them, by an abort mark, and a word that is cut off ending short (R1, R123). -/
def Obligations.SentUnitsCarryTheirContents : Prop :=
  ((∀ u : LinkUnit, isCell u = false → u.bytes.length = 8 ∧ checkPasses u.bytes = true) ∧
   (∀ (i : PortId) (e : CellEntry),
     (unicastHeader i e).length = 8 ∧ checkPasses (unicastHeader i e) = true ∧
     readHeader (unicastHeader i e) =
       { kind := 0#2, cls := e.cls, epoch := 0#3, port := portByte i, group := 0#12, flow := e.flow,
         plane := e.plane } ∧
     (byteAt (unicastHeader i e) 0).toNat % 4 = 0 ∧ (byteAt (unicastHeader i e) 2).toNat / 16 = 0) ∧
   ∀ (i : PortId) (e : CopyEntry),
     (byteAt (copyHeader i e) 0).toNat % 4 = 0 ∧ (byteAt (copyHeader i e) 2).toNat / 16 = 0 ∧
     (copyHeader i e).length = 8 ∧ checkPasses (copyHeader i e) = true ∧
     readHeader (copyHeader i e) =
       { kind := 1#2, cls := e.cls, epoch := 0#3, port := portByte i, group := e.group, flow := e.flow,
         plane := e.plane }) ∧
  ((∀ (epoch : Epoch) (entries : List (Key × Nat)), entries.length ≤ 4 → (∀ x ∈ entries, x.2 ≤ 32) →
     ∃ b1 b2 b3 b4 b5 b6 check : Byte,
       (LinkUnit.credit epoch entries).bytes =
         [BitVec.ofNat 8 (0x20 + epoch.toNat), b1, b2, b3, b4, b5, b6, check] ∧
       ∀ n, n < 4 →
         (b1 ++ b2 ++ b3 ++ b4 ++ b5 ++ b6 : BitVec 48).toNat / 2 ^ (36 - 12 * n) % 4096 =
           match entries[n]? with
           | some x => x.1.val * 64 + x.2
           | none => 63 * 64) ∧
   (∀ map : OutSet, ∃ b1 b2 b3 check : Byte,
     (LinkUnit.congestion map).bytes = [0x30#8, b1, b2, b3, 0#8, 0#8, 0#8, check] ∧ (b1 ++ b2 ++ b3 : BitVec 24) = map) ∧
   (∀ epoch : Epoch, ∃ check : Byte,
     (LinkUnit.resync epoch).bytes = [BitVec.ofNat 8 (0x28 + epoch.toNat), 0#8, 0#8, 0#8, 0#8, 0#8, 0#8, check]) ∧
   LinkUnit.idle.bytes = [0x00#8, 0#8, 0#8, 0#8, 0#8, 0#8, 0#8, 0xFF#8] ∧
   LinkUnit.marker.bytes = [0x08#8, 0x5C#8, 0x3E#8, 0x91#8, 0xA7#8, 0x0F#8, 0x62#8, 0xB4#8]) ∧
  ((∀ (header payload : List Byte) (sent : Nat),
     (LinkUnit.cell header payload).symbols .whole sent =
       .startOfCell :: ((header ++ payload).map .data ++ [.endOfCell]) ∧
     (LinkUnit.cell header payload).symbols .abortMark sent =
       .startOfCell :: (((header ++ payload).take sent).map .data ++ [.abortMark])) ∧
   ∀ (u : LinkUnit) (sent : Nat), isCell u = false →
     u.symbols .whole sent = .startOfWord :: u.bytes.map .data ∧
     u.symbols .short sent = .startOfWord :: (u.bytes.take sent).map .data)

/-- What is received. The type of a word decides a MARKER, good when its check passes and bytes 1 to 6 equal the pattern; of
the other words, one whose check fails or whose type is not IDLE, HOLD or RELEASE is a CONTROL_ERROR word (R5, R8). The framing
of R1, from outside any unit: a cell closed by its end-of-cell symbol, by an abort mark or by a start symbol, with any number
of data bytes; a word of eight data bytes; a word interrupted before its eighth; and closing symbols outside any cell, which
are ignored. What the part sends is framed by the same rule: a cell, a cell closed by an abort mark after any number of its
bytes, a word, and a word cut off before its eighth byte, which the next start symbol interrupts. -/
def Obligations.ReceiverFramesAndClassesUnits : Prop :=
  (∀ (p : PortId) (w : ControlWord),
     (wordType w = 1#5 → decodeWord p w = .markerReceived p w) ∧
     (wordType w ≠ 1#5 → checkPasses w.toList = false → decodeWord p w = .controlErrorWord p) ∧
     (wordType w = 0#5 → checkPasses w.toList = true → decodeWord p w = .idleReceived p) ∧
     (wordType w = 2#5 → checkPasses w.toList = true → decodeWord p w = .hold p) ∧
     (wordType w = 3#5 → checkPasses w.toList = true → decodeWord p w = .release p) ∧
     (4 ≤ (wordType w).toNat → decodeWord p w = .controlErrorWord p) ∧
     (goodMarker w = true ↔
       byteSum w.toList % 256 = 255 ∧ w.get 1 = 0x5C#8 ∧ w.get 2 = 0x3E#8 ∧ w.get 3 = 0x91#8 ∧ w.get 4 = 0xA7#8 ∧
         w.get 5 = 0x0F#8 ∧ w.get 6 = 0x62#8)) ∧
  ((∀ data : List Byte,
     frameSymbols .outside (.startOfCell :: (data.map .data ++ [.endOfCell])) = (.outside, [.cell data .endOfCell]) ∧
     frameSymbols .outside (.startOfCell :: (data.map .data ++ [.abortMark])) = (.outside, [.aborted]) ∧
     frameSymbols .outside (.startOfCell :: (data.map .data ++ [.startOfCell])) =
       (.inCell [], [.cell data .startSymbol]) ∧
     frameSymbols .outside (.startOfCell :: (data.map .data ++ [.startOfWord])) =
       (.inWord [], [.cell data .startSymbol])) ∧
   (∀ data : List Byte, data.length < 8 →
     frameSymbols .outside (.startOfWord :: (data.map .data ++ [.startOfCell])) = (.inCell [], [.unfinishedWord]) ∧
     frameSymbols .outside (.startOfWord :: (data.map .data ++ [.startOfWord])) = (.inWord [], [.unfinishedWord]) ∧
     frameSymbols .outside (.startOfWord :: (data.map .data ++ [.endOfCell])) = (.outside, [.unfinishedWord]) ∧
     frameSymbols .outside (.startOfWord :: (data.map .data ++ [.abortMark])) = (.outside, [.unfinishedWord])) ∧
   (∀ w : ControlWord, frameSymbols .outside (.startOfWord :: w.toList.map .data) = (.outside, [.word w])) ∧
   frameSymbols .outside [.endOfCell, .abortMark, .fill] = (.outside, [])) ∧
  ((∀ (header payload : List Byte) (sent : Nat),
     frameSymbols .outside ((LinkUnit.cell header payload).symbols .whole sent) =
       (.outside, [.cell (header ++ payload) .endOfCell]) ∧
     frameSymbols .outside ((LinkUnit.cell header payload).symbols .abortMark sent) = (.outside, [.aborted])) ∧
   ∀ (u : LinkUnit) (sent : Nat), isCell u = false →
     (∀ w : ControlWord, w.toList = u.bytes → frameSymbols .outside (u.symbols .whole sent) = (.outside, [.word w])) ∧
     (sent < 8 →
       frameSymbols .outside (u.symbols .short sent ++ [.startOfCell]) = (.inCell [], [.unfinishedWord]) ∧
       frameSymbols .outside (u.symbols .short sent ++ [.startOfWord]) = (.inWord [], [.unfinishedWord])))

/-- The record of every well-formed supervisor command decodes to that command, with every argument byte (R169, R173); and so
does the record of every well-formed UNKNOWN_COMMAND (R171). No command is there before the last byte of the record has been
shifted in, and the bytes shifted in after it are ignored (R167). On the lines the bits of each byte come with the most
significant first, each as data-in stands at a rising edge of the clock, whatever it is at other times (R167). A record of PORT_ADMIN with an undefined action or a wrong
length stands with the ENABLE row, which is the model's choice (assumption 11). -/
def Obligations.RecordsDecodeToTheirCommand : Prop :=
  ∀ (i : Instr) (sp : SupPort) (record : List Byte),
    i.wf = true → recordOfInstr i = some (sp, record) →
      decodeRecord sp record = some i ∧
      (∀ after, decodeRecord sp (record ++ after) = some i) ∧
      (∀ n, n < record.length → decodeRecord sp (record.take n) = none) ∧
      let bits := record.flatMap fun b => [7, 6, 5, 4, 3, 2, 1, 0].map fun k => b.getLsbD k
      let clocked (bits : List Bool) : List SpiLevels :=
        bits.flatMap fun b => [{ clock := false, data := !b }, { clock := true, data := b }, { clock := true, data := !b }]
      (∀ after, decodeLines sp (clocked (bits ++ after)) = some i) ∧
      ∀ n, n < bits.length → decodeLines sp (clocked (bits.take n)) = none

/-- The records and words that the manual writes out: CLAIM and KEEPALIVE(B) (R169), the response of the example of R170, and
the MARKER of R8. The response record in general (R170): the status code, the code echoed, the mastership byte with holder and
health, the data length, the data, and the check byte that makes all sum to 255 modulo 256. And the data that the manual lays
out: BAD_ARGUMENT (R170), CLAIM (R177), KEEPALIVE (R179), COUNTERS_READ (R190), and the two bytes of the evict set number that
end NOTICES_READ (R187; most significant first, as R169 sends its arguments: assumption 1). -/
def Obligations.WrittenOutRecordsAndWords : Prop :=
  (∀ r : Response, ∃ status mastership hi lo check : Byte,
    r.record = status :: r.code :: mastership :: hi :: lo :: (r.data.bytes ++ [check]) ∧
    (r.status, status) ∈ [(Status.ok, (0#8 : Byte)), (.notMaster, 1#8), (.alreadyHeld, 2#8), (.duplicate, 3#8),
      (.badArgument, 4#8), (.meterRunning, 5#8), (.unknownCommand, 6#8)] ∧
    mastership.toNat =
      (if r.holder = some .sp0 then 1 else if r.holder = some .sp1 then 2 else 0) + (if r.health = .alerted then 4 else 0) ∧
    (r.data.bytes.length < 65536 → hi.toNat * 256 + lo.toNat = r.data.bytes.length) ∧
    byteSum r.record % 256 = 255) ∧
  ((∀ b, (RespData.badArgument b).bytes = [b]) ∧
   (∀ changed, (RespData.claim changed).bytes = [if changed then 1#8 else 0#8]) ∧
   (∀ restarted pointer, (RespData.keepalive restarted pointer).bytes =
     [if restarted then 1#8 else 0#8, if pointer = .expectB then 1#8 else 0#8]) ∧
   (∀ (c : Table Nat 15) (k : Fin 15), c.get k < 4294967296 → ∃ b3 b2 b1 b0 : Byte,
     ((RespData.counters c).bytes.drop (4 * k.val)).take 4 = [b3, b2, b1, b0] ∧
       b3.toNat * 16777216 + b2.toNat * 65536 + b1.toNat * 256 + b0.toNat = c.get k) ∧
   ∀ total returned items set, set < 256 → ∃ front,
     (RespData.notices total returned items set).bytes = front ++ [0#8, BitVec.ofNat 8 set]) ∧
  decodeRecord .sp0 [0x10#8, 0x00#8, 0xEF#8] = some (.claim .sp0 []) ∧
  decodeRecord .sp1 [0x12#8, 0x01#8, 0x01#8, 0xEB#8] = some (.keepalive .sp1 [0x01#8]) ∧
  (Response.record
    { status := .ok, code := 0x10#8, holder := some .sp1, health := .healthy, data := .claim true }) =
      [0x00#8, 0x10#8, 0x02#8, 0x00#8, 0x01#8, 0x01#8, 0xEB#8] ∧
  LinkUnit.marker.bytes = [0x08#8, 0x5C#8, 0x3E#8, 0x91#8, 0xA7#8, 0x0F#8, 0x62#8, 0xB4#8]

/-! ### The link (chapter 1) -/

/-- Lock and markers move the qualifier of their port alone where the link neither enters nor leaves UP (R9, R11, R12, R14, R18):
lock acquired in DOWN; lock lost and markers in HOLDOFF; lock lost in QUALIFYING and markers there that do not reach Q; and
in UP good markers and bad markers that do not reach F. -/
def Obligations.QualifierTakesLockAndMarkers : Prop :=
  (∀ (s : State) (p : PortId),
     let x := s.port p
     (x.rx.locked = false → x.rx.link = .down →
       exec (.lockAcquired p) s = .next (withPort s p { x with
         rx :=
           if 0 < x.rx.h then { x.rx with locked := true, link := .holdoff, holdoff := 0 }
           else { x.rx with locked := true, link := .qualifying, good := 0 } })) ∧
     (∀ cut, x.rx.locked = true → x.rx.link = .holdoff ∨ x.rx.link = .qualifying →
       exec (.lockLost p cut) s = .next (withPort s p { x with
         rx := { x.rx with locked := false, link := .down, holdoff := 0, good := 0, bad := 0 }
         counters := if cut = .cell then countedUp x .notUp else x.counters })) ∧
     (∀ w, x.rx.locked = true → x.rx.link = .holdoff →
       exec (.markerReceived p w) s = .next (withPort s p { x with
         rx :=
           if x.rx.h ≤ min (x.rx.holdoff + 1) 255 then
             { x.rx with holdoff := min (x.rx.holdoff + 1) 255, link := .qualifying, good := 0 }
           else { x.rx with holdoff := min (x.rx.holdoff + 1) 255 } })) ∧
     (∀ w, x.rx.locked = true → x.rx.link = .qualifying → goodMarker w = false →
       exec (.markerReceived p w) s = .next (withPort s p { x with rx := { x.rx with good := 0 } })) ∧
     (∀ w, x.rx.locked = true → x.rx.link = .qualifying → goodMarker w = true → x.rx.good + 1 < x.rx.q →
       exec (.markerReceived p w) s = .next (withPort s p { x with rx := { x.rx with good := x.rx.good + 1 } }))) ∧
  (∀ (s : State) (p : PortId) (w : ControlWord),
     let x := s.port p
     x.rx.locked = true → x.rx.link = .up →
       (goodMarker w = true →
         exec (.markerReceived p w) s = .next (withPort s p { x with rx := { x.rx with bad := 0 } })) ∧
       (goodMarker w = false → x.rx.bad + 1 < x.rx.f →
         exec (.markerReceived p w) s = .next (withPort s p { x with rx := { x.rx with bad := x.rx.bad + 1 } })))

/-- The good marker that reaches Q takes the link to UP (R11, R21): the transmitter goes to IDLE with a congestion update
owed, an ENABLED port has a credit issue, the LINK level rises, and the arbiter of the output makes its check. -/
def Obligations.LinkEntersUp : Prop :=
  ∀ (s : State) (p : PortId) (w : ControlWord),
    let x := s.port p
    x.rx.locked = true → x.rx.link = .qualifying → goodMarker w = true → x.rx.q ≤ x.rx.good + 1 →
      let up : Port := { x with
        rx := { x.rx with link := .up, good := x.rx.good + 1, bad := 0 }
        tx := { x.tx with state := .idle, congestionUpdate := true } }
      exec (.markerReceived p w) s =
        .next (notify (afterPick (withPort s p (if x.admin = .enabled then up.issue else up)) p) [.link p true])

/-- The link leaves UP by lock lost or by the F-th bad marker (R12, R18, R20): whatever drains complete with it, the port is
DOWN with its credits withdrawn and its transmitter DOWN, the unit on its link cut off (R123; what its counter and word-owed
mark then show is assumption 8), and no queue and no entry holds anything for its output; and where no drain completes in the
event, the flush and prune are all that happens elsewhere, what they removed is counted FLUSHED, a cell cut short is counted
LINK_LOSS, and LINK, CONGESTION and STALL fall as their levels do. -/
def Obligations.LinkLeavesUp : Prop :=
  ∀ (s : State) (p : PortId) (c : Instr) (cut : CutShort),
    let x := s.port p
    x.rx.locked = true → x.rx.link = .up →
    (c = .lockLost p cut ∨
      cut = .nothing ∧ ∃ w, c = .markerReceived p w ∧ goodMarker w = false ∧ x.rx.f ≤ x.rx.bad + 1) →
      ∃ t, exec c s = .next t ∧ LeftUp x (t.port p) ∧
        (∀ i q, (t.port i).queue p q = []) ∧ (∀ i, ∀ e ∈ (t.port i).copies, e.remaining.has p = false) ∧
        (NoDrainEnds s t →
          FlushedToward p s t ∧ (t.port p).admin = x.admin ∧ (t.port p).guard = x.guard ∧
          (t.port p).counters = flushedCounters s p (if cut = .cell then countedUp x .linkLoss else x.counters) ∧
          t.spi = s.spi ∧
          t.units = (notify s ([.link p false] ++ flushEdge s p ++
            if x.tx.state = .stalled then [.stall p false] else [])).units)

/-- An unlocked receiver delivers no units (R9, R15), so a unit given to one cannot happen, and leaves the state as it is (the
model's choice, assumption 2); IDLE words, unfinished words and aborted cells have
no effect in any state (R1, R17); before UP a HOLD, a RELEASE and a CONTROL_ERROR word are dropped without count (R16). In UP
a CONTROL_ERROR word is counted and goes to the guard as a fault, whose record latches the first fault and counts the later
ones; FAULT, and FROZEN in the FREEZE mode, are raised when it latches (R17, R37, R38). -/
def Obligations.ReceivedUnitsByLinkState : Prop :=
  (∀ (s : State) (p : PortId),
     exec (.idleReceived p) s = .next s ∧ exec (.wordDropped p) s = .next s ∧ exec (.abortedCell p) s = .next s ∧
     ((s.port p).rx.locked = false ∨ (s.port p).rx.link ≠ .up →
       exec (.hold p) s = .next s ∧ exec (.release p) s = .next s ∧ exec (.controlErrorWord p) s = .next s) ∧
     ((s.port p).rx.locked = false →
       (∀ w, exec (.markerReceived p w) s = .next s) ∧
       ∀ data closed, exec (.cellReceptionComplete p data closed) s = .next s)) ∧
  (∀ (s : State) (p : PortId), (s.port p).rx.locked = true → (s.port p).rx.link = .up →
     exec (.controlErrorWord p) s =
       .next (notify
         (withPort s p { s.port p with
           counters := countedUp (s.port p) .controlError
           guard := afterFault (s.port p).guard .controlError })
         (faultNotices p (s.port p).guard)))

/-! ### Classification (chapter 2) -/

/-- Steps 1, 2, 4 and 6 of R26: a cell on a port that is not UP, on one that is not ENABLED, of a stale epoch, and one whose
key has no outstanding credit raise their counter and move no credit; the last is also a fault to the guard (R32, R34,
R35). -/
def Obligations.CellsDiscardedWithoutCharge : Prop :=
  ∀ (s : State) (p : PortId) (data : List Byte) (closed : CellEnd),
    let x := s.port p
    let cell := Instr.cellReceptionComplete p data closed
    let h := readHeader data
    x.rx.locked = true →
      (x.rx.link ≠ .up → exec cell s = .next (withPort s p { x with counters := countedUp x .notUp })) ∧
      (x.rx.link = .up → x.admin ≠ .enabled →
        exec cell s = .next (withPort s p { x with counters := countedUp x .admin })) ∧
      (x.rx.link = .up → x.admin = .enabled → headerError data closed = false → h.epoch ≠ x.epoch →
        exec cell s = .next (withPort s p { x with counters := countedUp x .staleEpoch })) ∧
      (x.rx.link = .up → x.admin = .enabled → headerError data closed = false → h.epoch = x.epoch →
        (h.multicast = true ∨ h.port.toNat < 24) → x.account.outstanding.get h.key = 0 →
        exec cell s = .next (notify
          (withPort s p { x with counters := countedUp x .overdraft, guard := afterFault x.guard .overdraft })
          (faultNotices p x.guard)))

/-- Steps 3 and 5 of R26: a header error (R31) and a bad destination (R33) raise their counter, go to the guard as a fault in
every guard state, and cause a credit issue; and when a header is in error (R1, R2, R3). -/
def Obligations.HeaderErrorAndBadDestination : Prop :=
  (∀ (data : List Byte) (closed : CellEnd),
    headerError data closed = true ↔
      closed = .startSymbol ∨ data.length ≠ 80 ∨ byteSum (data.take 8) % 256 ≠ 255 ∨
        2 ≤ (readHeader data).kind.toNat) ∧
  ∀ (s : State) (p : PortId) (data : List Byte) (closed : CellEnd),
    let x := s.port p
    let h := readHeader data
    x.rx.locked = true → x.rx.link = .up → x.admin = .enabled →
      (headerError data closed = true →
        exec (.cellReceptionComplete p data closed) s = .next (notify
          (withPort s p
            ({ x with counters := countedUp x .headerError, guard := afterFault x.guard .headerError } : Port).issue)
          (faultNotices p x.guard))) ∧
      (headerError data closed = false → h.epoch = x.epoch → h.multicast = false → 24 ≤ h.port.toNat →
        exec (.cellReceptionComplete p data closed) s = .next (notify
          (withPort s p
            ({ x with counters := countedUp x .badDest, guard := afterFault x.guard .badDest } : Port).issue)
          (faultNotices p x.guard)))

/-- Steps 7 to 9 of R26 where the cell is discarded after its charge: FROZEN, UNAVAILABLE, GROUP_MISS and EMPTY_FANOUT each
move one credit of the cell's key from outstanding to pending and raise their counter; the hit of an EMPTY_FANOUT still
counts in the table, and a FROZEN cell makes no lookup (R27, R28, R29). -/
def Obligations.CellsDiscardedAfterCharge : Prop :=
  ∀ (s : State) (p : PortId) (data : List Byte) (closed : CellEnd),
    let x := s.port p
    let cell := Instr.cellReceptionComplete p data closed
    let h := readHeader data
    let g := s.groups.get (groupSet h.group.toNat)
    let tag := groupTag h.group.toNat
    let moved (k : Key) (why : Counter) : Port := { x with
      counters := countedUp x why
      account := { x.account with
        outstanding := x.account.outstanding.put k (x.account.outstanding.get k - 1)
        pending := x.account.pending.put k (x.account.pending.get k + 1)
        returnList := joinKey x.account.returnList k } }
    x.rx.locked = true → x.rx.link = .up → x.admin = .enabled → headerError data closed = false → h.epoch = x.epoch →
      (∀ k, (h.multicast = true ∧ k = keyM ∨
          h.multicast = false ∧ ∃ d : PortId, h.port = portByte d ∧ k = unicastKey d h.cls) →
        x.account.outstanding.get k ≠ 0 → x.guard.state = .frozen → x.guard.tolerate = false →
        exec cell s = .next (withPort s p (moved k .frozen))) ∧
      (¬ (x.guard.state = .frozen ∧ x.guard.tolerate = false) →
        (∀ d : PortId, h.multicast = false → h.port = portByte d →
          x.account.outstanding.get (unicastKey d h.cls) ≠ 0 → (s.port d).available = false →
          exec cell s = .next (withPort s p (moved (unicastKey d h.cls) .unavailable))) ∧
        (h.multicast = true → x.account.outstanding.get keyM ≠ 0 → g.hit tag h.cls = none →
          exec cell s = .next (withPort s p (moved keyM .groupMiss))) ∧
        (∀ w, h.multicast = true → x.account.outstanding.get keyM ≠ 0 → g.hit tag h.cls = some w →
          (∀ o, (g.ways.get w).fanout.has o = true → (s.port o).available = false) →
          exec cell s = .next { withPort s p (moved keyM .emptyFanout) with
            groups := s.groups.put (groupSet h.group.toNat) (g.hitWay w) }))

/-- Step 8 of R26 where the cell is accepted (R28, R30, R45): it joins the tail of X(p, d, c) with its restart flag clear, its
key loses one outstanding credit, the accepted counter rises, the waiting count of `d` rises by 1 with its flag evaluated,
and the arbiter of `d` makes its check. -/
def Obligations.UnicastCellAccepted : Prop :=
  ∀ (s : State) (p d : PortId) (data : List Byte) (closed : CellEnd),
    let x := s.port p
    let h := readHeader data
    let k := unicastKey d h.cls
    x.rx.locked = true → x.rx.link = .up → x.admin = .enabled → headerError data closed = false → h.epoch = x.epoch →
    h.multicast = false → h.port = portByte d → x.account.outstanding.get k ≠ 0 →
    ¬ (x.guard.state = .frozen ∧ x.guard.tolerate = false) → (s.port d).available = true →
      let entry : CellEntry :=
        { cls := h.cls, flow := h.flow, plane := h.plane, payload := data.drop 8, restart := false }
      let joined := withPort s p { x with
        queues := x.queues.put (queueNo d h.cls) (x.queue d h.cls ++ [entry])
        counters := countedUp x .accepted
        account := { x.account with
          outstanding := x.account.outstanding.put k (x.account.outstanding.get k - 1) } }
      exec (.cellReceptionComplete p data closed) s =
        .next (notify (afterPick (waited joined d ((s.port d).monitor.waiting + 1)) d)
          (flagEdge s d ((s.port d).monitor.waiting + 1)))

/-- Step 9 of R26 where the cell is accepted (R29, R30, R71, R88): the hit counts in the table, the entry joins the tail of
the replication queue with the remaining set fanout ∩ available and an empty in-service set, key M loses one outstanding
credit, and every output of the remaining set has its waiting count raised and evaluated and makes its check. -/
def Obligations.MulticastCellAccepted : Prop :=
  ∀ (s : State) (p : PortId) (data : List Byte) (closed : CellEnd) (w : Fin 4) (remaining : OutSet),
    let x := s.port p
    let h := readHeader data
    let set := groupSet h.group.toNat
    let g := s.groups.get set
    x.rx.locked = true → x.rx.link = .up → x.admin = .enabled → headerError data closed = false → h.epoch = x.epoch →
    h.multicast = true → x.account.outstanding.get keyM ≠ 0 →
    ¬ (x.guard.state = .frozen ∧ x.guard.tolerate = false) →
    g.hit (groupTag h.group.toNat) h.cls = some w →
    (∀ o, remaining.has o = ((g.ways.get w).fanout.has o && (s.port o).available)) → remaining ≠ OutSet.empty →
      let entry : CopyEntry :=
        { group := h.group, cls := h.cls, remaining := remaining, inService := OutSet.empty, flow := h.flow,
          plane := h.plane, payload := data.drop 8 }
      let joined : State := { withPort s p { x with
          copies := x.copies ++ [entry]
          counters := countedUp x .accepted
          account := { x.account with
            outstanding := x.account.outstanding.put keyM (x.account.outstanding.get keyM - 1) } } with
        groups := s.groups.put set (g.hitWay w) }
      let raised := remaining.toList.foldl (fun t o => waited t o ((s.port o).monitor.waiting + 1)) joined
      exec (.cellReceptionComplete p data closed) s =
        .next (notify (remaining.toList.foldl afterPick raised)
          (remaining.toList.flatMap fun o => flagEdge s o ((s.port o).monitor.waiting + 1)))

/-! ### Credits (chapter 3) -/

/-- A credit issue (R55), as `Port.issue` makes it for a port: the epoch advances by 1 modulo 8, every outstanding count
becomes 0, every pending count becomes the free space of its key, the return list holds the keys with free space in key
order, a RESYNC with the new epoch is pending, the resync-pending flag is set, a credit word in flight is void, and nothing
else of the port changes. The keys with their numbers, capacities and occupancies (R6, R49): 2 × o with 6 for BULK, 2 × o + 1
with 2 for EXPRESS, and 48 with 32 for M. -/
def Obligations.CreditIssueRebuildsTheAccount : Prop :=
  ((∀ o, (unicastKey o .bulk).val = 2 * o.val ∧ capacity (unicastKey o .bulk) = 6 ∧
      (unicastKey o .express).val = 2 * o.val + 1 ∧ capacity (unicastKey o .express) = 2) ∧
    keyM.val = 48 ∧ capacity keyM = 32 ∧
    ∀ x : Port, (∀ o c, x.occupancy (unicastKey o c) = (x.queue o c).length) ∧ x.occupancy keyM = x.copies.length) ∧
  ∀ x : Port,
    x.issue.epoch.toNat = (x.epoch.toNat + 1) % 8 ∧
    (∀ k, x.issue.account.outstanding.get k = 0 ∧
      x.issue.account.pending.get k = capacity k - x.occupancy k) ∧
    (∀ k, k ∈ x.issue.account.returnList ↔ x.occupancy k < capacity k) ∧
    x.issue.account.returnList.Pairwise (· < ·) ∧
    x.issue.account.resyncPending = true ∧
    x.issue.account.inFlight = x.account.inFlight.map (fun w => { w with void := true }) ∧
    x.issue.tx = { x.tx with resyncWord := some x.issue.epoch } ∧
    { x.issue with epoch := x.epoch, account := x.account, tx := x.tx } = x

/-- The completions of the words that carry news of credits and congestion: a CREDIT word moves its counts from pending to
outstanding and takes the keys it leaves at 0 off the list, unless it is void (R53, R54); a RESYNC clears the resync-pending
flag when it carries the current epoch (R56, R129); a CONGESTION word has no effect (R130); and each raises the marker
spacing counter by 1 (R128). -/
def Obligations.WordCompletions : Prop :=
  ∀ (s : State) (o : PortId),
    let x := s.port o
    let ended : Transmitter := { x.tx with onLink := none, closed := some .whole, spacing := x.tx.spacing + 1 }
    (∀ e l word, x.tx.onLink = some (.credit e l) → x.account.inFlight = some word →
      (word.void = true →
        exec (.creditWordCompletion o) s =
          .next (withPort s o { x with account := { x.account with inFlight := none }, tx := ended })) ∧
      (word.void = false → (word.entries.map Prod.fst).Nodup →
        let named := word.entries.map Prod.fst
        let count (k : Key) : Nat := ((word.entries.filter fun y => y.1 = k).map Prod.snd).sum
        exec (.creditWordCompletion o) s =
          .next (withPort s o { x with
            account := { x.account with
              pending := .ofFn fun k => x.account.pending.get k - count k
              outstanding := .ofFn fun k => x.account.outstanding.get k + count k
              returnList := x.account.returnList.filter fun k =>
                !decide (k ∈ named ∧ x.account.pending.get k - count k = 0)
              inFlight := none }
            tx := ended }))) ∧
    (∀ e, x.tx.onLink = some (.resync e) →
      exec (.resyncCompletion o) s =
        .next (withPort s o { x with
          account := if e = x.epoch then { x.account with resyncPending := false } else x.account
          tx := ended })) ∧
    (∀ map, x.tx.onLink = some (.congestion map) →
      exec (.congestionWordCompletion o) s = .next (withPort s o { x with tx := ended }))

/-! ### The group table (chapter 4) -/

/-- Class selectors (R68): which classes each matches, a lookup with a class hits an entry only if its selector matches the
class, and two selectors overlap exactly when some class is matched by both; NEITHER
matches and overlaps nothing, so that an entry with it hits no cell and is never a duplicate or updated in place. -/
def Obligations.ClassSelectorsMatchAndOverlap : Prop :=
  (∀ c, Selector.either.covers c = true ∧ Selector.neither.covers c = false) ∧
  Selector.expressOnly.covers .express = true ∧ Selector.expressOnly.covers .bulk = false ∧
  Selector.bulkOnly.covers .express = false ∧ Selector.bulkOnly.covers .bulk = true ∧
  (∀ a b : Selector, a.overlaps b = true ↔ ∃ c, a.covers c = true ∧ b.covers c = true) ∧
  (∀ b : Selector, Selector.neither.overlaps b = false ∧ b.overlaps .neither = false) ∧
  (∀ (g : GroupSet) (tag : Nat) (c : Machine.Class) (w : Fin 4), g.hit tag c = some w →
    (g.ways.get w).sel.covers c = true) ∧
  ∀ (g : GroupSet) (tag : Nat) (w : Fin 4), (g.ways.get w).sel = .neither →
    (∀ c, g.hit tag c ≠ some w) ∧
      ∀ sel, (∀ target, g.duplicate tag sel target ≠ some w) ∧ g.conflicts tag sel w = false

/-- The pseudo-LRU tree and the lookup (R66, R69, R70, R71): the victim the bits name, the bits a use leaves, the way a
lookup hits, and what a hit does. -/
def Obligations.PseudoLruTreeAndLookup : Prop :=
  (∀ g : GroupSet,
    g.victim.val = (if g.root then 2 else 0) + (if g.root then (if g.r then 1 else 0) else (if g.l then 1 else 0))) ∧
  (∀ (g : GroupSet) (w : Fin 4), g.touch w = { g with
    root := decide (w.val < 2)
    l := if w.val < 2 then decide (w.val = 0) else g.l
    r := if w.val < 2 then g.r else decide (w.val = 2) }) ∧
  (∀ (g : GroupSet) (tag : Nat) (c : Machine.Class) (w : Fin 4), GroupLaw g →
    (g.hit tag c = some w ↔
      (g.ways.get w).valid = true ∧ (g.ways.get w).tag = tag ∧ (g.ways.get w).sel.covers c = true)) ∧
  (∀ (g : GroupSet) (w : Fin 4),
    g.hitWay w =
      ({ g with
        ways := g.ways.put w { g.ways.get w with hits := min ((g.ways.get w).hits + 1) 65535 } } : GroupSet).touch w) ∧
  ∀ n, n < 4096 → (groupSet n).val = n % 256 ∧ groupTag n = n / 256 ∧ groupTag n * 256 + (groupSet n).val = n

/-- GROUP_INSTALL from the holder (R74 to R78): the target way by the placement; DUPLICATE with the lowest conflicting way
where a valid way other than the target holds the tag with an overlapping selector; otherwise the target is written and
becomes most recently used, and overwriting a valid entry that is not an in-place update raises EVICT. -/
def Obligations.GroupInstallWritesOrRefuses : Prop :=
  ∀ (s : State) (sp : SupPort) (gHi gLo f3 f2 f1 f0 selByte placeByte : Byte) (sel : Selector)
    (place : Option (Fin 4)) (w : Fin 4),
    let id := gHi.toNat * 256 + gLo.toNat
    let set := groupSet id
    let tag := groupTag id
    let g := s.groups.get set
    let conflicts (v : Fin 4) : Prop :=
      (g.ways.get v).valid = true ∧ (g.ways.get v).tag = tag ∧ (g.ways.get v).sel.overlaps sel = true
    let fanout : OutSet := (f2 ++ f1 ++ f0 : BitVec 24)
    let command := Instr.groupInstall sp [gHi, gLo, selByte, f3, f2, f1, f0, placeByte]
    let entry : GroupEntry := { valid := true, tag := tag, sel := sel, fanout := fanout, hits := 0 }
    let written : GroupSet := ({ g with ways := g.ways.put w entry } : GroupSet).touch w
    s.master.holder = some sp → id < 4096 →
    (selByte, sel) ∈ [(0#8, Selector.neither), (1#8, .bulkOnly), (2#8, .expressOnly), (3#8, .either)] →
    (placeByte, place) ∈ [(0#8, some (0 : Fin 4)), (1#8, some 1), (2#8, some 2), (3#8, some 3), (4#8, none)] →
    (place = some w ∨
      place = none ∧
        ((conflicts w ∧ ∀ v, v < w → ¬ conflicts v) ∨
          (∀ v, ¬ conflicts v) ∧
            (((g.ways.get w).valid = false ∧ ∀ v, v < w → (g.ways.get v).valid = true) ∨
              (∀ v, (g.ways.get v).valid = true) ∧ w = g.victim))) →
      (∀ v, v ≠ w → conflicts v → (∀ u, u < v → u ≠ w → ¬ conflicts u) →
        exec command s = .next (s.respond sp 0x30#8 .duplicate (.duplicate v))) ∧
      ((∀ v, v ≠ w → ¬ conflicts v) →
        ((g.ways.get w).valid = true → ¬ conflicts w →
          exec command s =
            .next ((notify { s with groups := s.groups.put set written } [.evict set]).respond sp 0x30#8 .ok
              (.install set w sel fanout
                (.evicted (g.ways.get w).tag (g.ways.get w).sel (g.ways.get w).fanout)
                written.root written.l written.r))) ∧
        ((g.ways.get w).valid = false ∨ conflicts w →
          exec command s =
            .next (({ s with groups := s.groups.put set written } : State).respond sp 0x30#8 .ok
              (.install set w sel fanout (if (g.ways.get w).valid then .inPlace else .invalidWay)
                written.root written.l written.r))))

/-- GROUP_REMOVE (R79), GROUP_REMOVE_ID (R80) and GROUP_FLUSH (R81): from a port that is not the holder NOT_MASTER and no
change; a set, way or group id out of range is refused; from the holder valid flags are cleared and every other field of the
table and of the part is kept, but that the flush sets the tree bits to 0. No EVICT is raised, a removed entry is hit by no
lookup, and the next AUTO install that updates no entry in place takes the lowest invalid way, way 0 after a flush. -/
def Obligations.GroupRemovalsClearValidFlags : Prop :=
  (∀ (s : State) (sp : SupPort) (args : List Byte), s.master.holder ≠ some sp →
    exec (.groupRemove sp args) s = .next (s.respond sp 0x31#8 .notMaster .empty) ∧
    exec (.groupRemoveId sp args) s = .next (s.respond sp 0x32#8 .notMaster .empty) ∧
    exec (.groupFlush sp args) s = .next (s.respond sp 0x33#8 .notMaster .empty)) ∧
  (∀ (s : State) (sp : SupPort) (hi lo way : Byte), s.master.holder = some sp →
    (256 ≤ hi.toNat * 256 + lo.toNat →
      exec (.groupRemove sp [hi, lo, way]) s = .next (s.respond sp 0x31#8 .badArgument (.badArgument 1#8))) ∧
    (hi.toNat * 256 + lo.toNat < 256 → 4 ≤ way.toNat →
      exec (.groupRemove sp [hi, lo, way]) s = .next (s.respond sp 0x31#8 .badArgument (.badArgument 2#8))) ∧
    (4096 ≤ hi.toNat * 256 + lo.toNat →
      exec (.groupRemoveId sp [hi, lo]) s = .next (s.respond sp 0x32#8 .badArgument (.badArgument 1#8)))) ∧
  ∀ (s : State) (sp : SupPort), s.master.holder = some sp →
    (∀ (set : Fin 256) (w : Fin 4),
      let g := s.groups.get set
      let cleared : GroupSet := { g with ways := g.ways.put w { g.ways.get w with valid := false } }
      (∀ tag c, cleared.hit tag c ≠ some w) ∧
      (∀ tag sel v, (∀ u, cleared.conflicts tag sel u = false) → (cleared.ways.get v).valid = false →
        (∀ u, u < v → (cleared.ways.get u).valid = true) → cleared.target tag sel none = v) ∧
      exec (.groupRemove sp [0#8, BitVec.ofNat 8 set.val, BitVec.ofNat 8 w.val]) s =
        .next (({ s with groups := s.groups.put set cleared } : State).respond sp 0x31#8 .ok
          (.removed (g.ways.get w).valid))) ∧
    (∀ hi lo : Byte, hi.toNat * 256 + lo.toNat < 4096 →
      let set := groupSet (hi.toNat * 256 + lo.toNat)
      let g := s.groups.get set
      let ofTag (w : Fin 4) : Bool :=
        (g.ways.get w).valid && (g.ways.get w).tag == groupTag (hi.toNat * 256 + lo.toNat)
      let cleared (w : Fin 4) : GroupEntry :=
        if ofTag w then { g.ways.get w with valid := false } else g.ways.get w
      exec (.groupRemoveId sp [hi, lo]) s =
        .next (({ s with groups := s.groups.put set { g with ways := .ofFn cleared } } : State).respond sp 0x32#8 .ok
          (.removedWays (allWays.filter ofTag).length (allWays.filter ofTag)))) ∧
    (let cleared (k : Fin 256) : GroupSet :=
      { ways := .ofFn fun w => { (s.groups.get k).ways.get w with valid := false }
        root := false, l := false, r := false }
    (∀ k tag c, (cleared k).hit tag c = none) ∧ (∀ k tag sel, (cleared k).target tag sel none = 0) ∧
    exec (.groupFlush sp []) s =
      .next (({ s with groups := .ofFn cleared } : State).respond sp 0x33#8 .ok
        (.flushed ((s.groups.toList.map fun g => g.ways.toList.countP (·.valid)).sum))))

/-! ### Output arbitration (chapter 6) -/

/-- An output is available when its link is UP, it is ENABLED or DRAINING, and its transmitter is not STALLED (R157). The check of
R102: where the transmitter is not IDLE, the output not available, or no input has a candidate, nothing
changes; otherwise the pick's input, offer and arbiter are taken, the transmitter goes to SENDING with the cell in service
and its marks clear (R124), and for a copy the output joins the in-service set of the candidate entry (R91). -/
def Obligations.PickCheckTakesTheArbitersChoice : Prop :=
  (∀ x : Port, x.available = true ↔
    x.rx.link = .up ∧ (x.admin = .enabled ∨ x.admin = .draining) ∧ x.tx.state ≠ .stalled) ∧
  ∀ (s : State) (o : PortId),
    ((s.port o).tx.state ≠ .idle ∨ (s.port o).available = false ∨
      (∀ i, (s.port i).queue o .express = [] ∧ (s.port i).queue o .bulk = [] ∧ (s.port i).candidate o = none) →
      afterPick s o = s) ∧
    ((s.port o).tx.state = .idle → (s.port o).available = true →
      (∃ i, (s.port i).queue o .express ≠ [] ∨ (s.port i).queue o .bulk ≠ [] ∨ (s.port i).candidate o ≠ none) →
      ∃ k, s.nextPick o = some k ∧
        let sending (x : Port) (src : Source) : Port := { x with
          arbiter := k.arbiter
          tx := { x.tx with state := .sending, service := some { src := src, aborted := false, started := false } } }
        (k.offer = .express → afterPick s o = withPort s o (sending (s.port o) (.cell k.input .express))) ∧
        (k.offer = .bulk → afterPick s o = withPort s o (sending (s.port o) (.cell k.input .bulk))) ∧
        (k.offer = .copy → ∃ before e after,
          (s.port k.input).copies = before ++ e :: after ∧ e.waitsFor o = true ∧
          (∀ a ∈ before, a.waitsFor o = false) ∧
          let marked := withPort s k.input { s.port k.input with
            copies := before ++ { e with inService := e.inService.add o } :: after }
          afterPick s o = withPort marked o (sending (marked.port o) (.copy k.input))))

/-- The phases of a pick (R105 to R111). With a level of at least 256 and an express queue waiting, the first such input after
the express pointer is picked and 256 is charged. Otherwise the first eligible input with allowance after the bulk pointer;
with none, a reload if some eligible input has a weight, current or pending, and the scan again; and spare service where that
finds none. -/
def Obligations.PickFollowsThePhases : Prop :=
  ∀ (s : State) (o : PortId),
    let a := (s.port o).arbiter
    let express (i : PortId) : Bool := !((s.port i).queue o .express).isEmpty
    let eligible (i : PortId) : Bool :=
      express i || !((s.port i).queue o .bulk).isEmpty || ((s.port i).candidate o).isSome
    let reloaded : Arbiter := { a with weight := a.staged, allowance := a.staged, rounds := a.rounds + 1#32 }
    let due : Prop := ∃ i, eligible i = true ∧ (a.weight.get i ≠ 0 ∨ a.staged.get i ≠ 0)
    let served (b : Arbiter) (i : PortId) (f : Offer) : Prop :=
      FirstAfter b.bulkPtr (fun j => eligible j && decide (0 < b.allowance.get j)) i ∧ Offers s o i (b.turn.get i) f ∧
        s.nextPick o = some { input := i, offer := f, arbiter := { b with
          allowance := b.allowance.put i (b.allowance.get i - 1), bulkPtr := i
          turn := b.turn.put i (turnAfter (b.turn.get i) f) } }
    let spare (b : Arbiter) (i : PortId) (f : Offer) : Prop :=
      FirstAfter b.sparePtr eligible i ∧ Offers s o i (b.turn.get i) f ∧
        s.nextPick o = some { input := i, offer := f, arbiter := { b with
          sparePtr := i, turn := b.turn.put i (turnAfter (b.turn.get i) f) } }
    (256 ≤ a.level → (∃ i, express i = true) →
      ∃ i, FirstAfter a.expressPtr express i ∧
        s.nextPick o = some { input := i, offer := .express, arbiter := { a with
          expressPtr := i, level := a.level - 256 } }) ∧
    (a.level < 256 ∨ (∀ i, express i = false) →
      ((∃ i, eligible i = true ∧ 0 < a.allowance.get i) → ∃ i f, served a i f) ∧
      ((∀ i, eligible i = true → a.allowance.get i = 0) → (∃ i, eligible i = true) →
        (due → (∃ i, eligible i = true ∧ 0 < a.staged.get i) → ∃ i f, served reloaded i f) ∧
        (due → (∀ i, eligible i = true → a.staged.get i = 0) → ∃ i f, spare reloaded i f) ∧
        (¬ due → ∃ i f, spare a i f)) ∧
      ((∀ i, eligible i = false) → s.nextPick o = none))

/-- WEIGHT_STAGE (R116), WEIGHT_STAGE_ROW (R117) and EXPRESS_SET (R115) from the holder: weights are clamped to 63 and written
to the pending row alone; the rate is clamped to 256, the burst into 1 to 16, and a level above the new cap brought down to
it; and HOLD_LIMIT (R136) writes the limit alone, so a running timer keeps its own. -/
def Obligations.OutputSettingsAreWritten : Prop :=
  ∀ (s : State) (sp : SupPort) (o : PortId), s.master.holder = some sp →
    let x := s.port o
    (∀ (i : PortId) (w : Byte),
      exec (.weightStage sp [portByte o, portByte i, w]) s =
        .next ((withPort s o { x with arbiter := { x.arbiter with
          staged := x.arbiter.staged.put i (min w.toNat 63) } }).respond sp 0x40#8 .ok
            (.weight (min w.toNat 63) (x.arbiter.weight.get i) (x.arbiter.allowance.get i)))) ∧
    (∀ ws : Table Byte 24,
      let row : Table Nat 24 := .ofFn fun i => min (ws.get i).toNat 63
      exec (.weightStageRow sp (portByte o :: ws.toList)) s =
        .next ((withPort s o { x with arbiter := { x.arbiter with staged := row } }).respond sp 0x41#8 .ok
          (.row row))) ∧
    (∀ rHi rLo b : Byte,
      let rate := min (rHi.toNat * 256 + rLo.toNat) 256
      let burst := if b.toNat = 0 then 1 else min b.toNat 16
      let level := if 256 * burst < x.arbiter.level then 256 * burst else x.arbiter.level
      exec (.expressSet sp [portByte o, rHi, rLo, b]) s =
        .next ((withPort s o { x with arbiter := { x.arbiter with
          rate := rate, burst := burst, level := level } }).respond sp 0x42#8 .ok (.express rate burst level))) ∧
    (∀ code limit, (code, limit) ∈ [(0#8, HoldLimit.off), (1#8, .ms1), (2#8, .ms8), (3#8, .ms64)] →
      exec (.holdLimit sp [portByte o, code]) s =
        .next ((withPort s o { x with tx := { x.tx with limit := limit } }).respond sp 0x43#8 .ok
          (.holdLimit limit x.tx.state x.tx.timer)))

/-! ### The egress transmitter (chapter 7) -/

/-- The unit boundary (R127, R128, R129, R130, R131, R52, R124). An IDLE word or a MARKER on the link ends there and is counted,
and where no unit stands on the link nothing is (the model's reading, assumption 7). Then: a MARKER
where the counter stands at 256; a word before the cell where one is owed and offered; the cell in service that waits to
start; a word where one is offered; and otherwise an IDLE word. RESYNC goes before CONGESTION and CONGESTION before
CREDIT. -/
def Obligations.UnitBoundaryTakesTheFirstThatApplies : Prop :=
  ∀ (s : State) (o : PortId),
    let x := s.port o
    let spacing := if x.tx.onLink = some .idle then x.tx.spacing + 1 else if x.tx.onLink = some .marker then 0
      else x.tx.spacing
    let up : Prop := x.rx.link = .up
    let resync : Prop := up ∧ x.tx.resyncWord ≠ none
    let congestion : Prop := up ∧ x.tx.congestionUpdate = true ∧ x.admin ≠ .disabled
    let credit : Prop := up ∧ x.admin = .enabled ∧ x.account.returnList ≠ [] ∧ x.account.resyncPending = false ∧
      x.account.inFlight = none
    let offered : Prop := resync ∨ congestion ∨ credit
    let starts : Prop := x.tx.state = .sending ∧ ∃ v, x.tx.service = some v ∧ v.started = false
    let wordFirst : Prop := x.tx.wordOwed = true ∨ ¬ starts
    let entries := (x.account.returnList.take 4).map fun k => (k, x.account.pending.get k)
    let closed := if x.tx.onLink = none then x.tx.closed else some .whole
    let sent (u : LinkUnit) : Transmitter :=
      { x.tx with onLink := some u, closed := closed, spacing := spacing, wordOwed := false }
    (x.tx.onLink = none ∨ x.tx.onLink = some .idle ∨ x.tx.onLink = some .marker) →
      (spacing = 256 →
        exec (.unitBoundary o) s = .next (withPort s o { x with
          tx := { x.tx with onLink := some .marker, closed := closed, spacing := spacing } })) ∧
      (spacing ≠ 256 →
        (∀ e, wordFirst → up → x.tx.resyncWord = some e →
          exec (.unitBoundary o) s = .next (withPort s o { x with
            tx := { sent (.resync e) with resyncWord := none } })) ∧
        (wordFirst → ¬ resync → congestion →
          exec (.unitBoundary o) s = .next (withPort s o { x with
            tx := { sent (.congestion (OutSet.ofPred fun q => (s.port q).monitor.flag)) with
              congestionUpdate := false } })) ∧
        (wordFirst → ¬ resync → ¬ congestion → credit →
          exec (.unitBoundary o) s = .next (withPort s o { x with
            account := { x.account with inFlight := some { epoch := x.epoch, entries := entries, void := false } }
            tx := sent (.credit x.epoch entries) })) ∧
        (∀ v i c e rest, x.tx.state = .sending → x.tx.service = some v → v.started = false → v.src = .cell i c →
          (s.port i).queue o c = e :: rest → (x.tx.wordOwed = false ∨ ¬ offered) →
          exec (.unitBoundary o) s = .next (withPort s o { x with
            tx := { sent (.cell (unicastHeader i e) e.payload) with
              service := some { v with started := true } } })) ∧
        (∀ v i e, x.tx.state = .sending → x.tx.service = some v → v.started = false → v.src = .copy i →
          (s.port i).servedCopy o = some e → (x.tx.wordOwed = false ∨ ¬ offered) →
          exec (.unitBoundary o) s = .next (withPort s o { x with
            tx := { sent (.cell (copyHeader i e) e.payload) with
              service := some { v with started := true } } })) ∧
        (¬ starts → ¬ offered → exec (.unitBoundary o) s = .next (withPort s o { x with tx := sent .idle })))

/-- The departure of a crosspoint head on `o` (R47, R112, R125, R127, R128, R140, R148, R149), where its input is not DRAINING or
still holds a cell or an entry afterwards, so that no drain completes (R162): the head leaves its queue and frees its place to its input, the departed counter rises, the bucket is refilled, the waiting
count falls by 1 with its flag evaluated, the meters take it, and the arbiter makes its check on an IDLE transmitter. -/
def Obligations.CellDeparture : Prop :=
  ∀ (s : State) (o i : PortId) (c : Machine.Class) (v : Service) (header payload : List Byte) (e : CellEntry)
    (rest : List CellEntry),
    let x := s.port o
    let n := x.monitor.waiting - 1
    x.tx.state = .sending → x.tx.service = some v → v.started = true → v.src = .cell i c →
    x.tx.onLink = some (.cell header payload) → (s.port i).queue o c = e :: rest →
    (∀ m, MeterLaw (s.meters.get m)) →
    ((s.port i).admin ≠ .draining ∨ rest ≠ [] ∨ (s.port i).copies ≠ [] ∨
      ∃ q d, ¬ (q = o ∧ d = c) ∧ (s.port i).queue q d ≠ []) →
      let sent := withPort s o { x with
        counters := countedUp x .departed
        arbiter := { x.arbiter with level := min (x.arbiter.level + x.arbiter.rate) (256 * x.arbiter.burst) }
        tx := { x.tx with
          state := .idle, service := none, onLink := none, closed := some .whole, spacing := x.tx.spacing + 1
          wordOwed := true } }
      let left := withPort sent i { sent.port i with
        queues := (sent.port i).queues.put (queueNo o c) rest
        account := freedAccount (s.port i) (unicastKey o c) }
      let metered : State := { waited left o n with
        meters := .ofFn fun m => meterAfter (s.meters.get m) o { input := i, cls := c, copy := false } }
      exec (.departure o) s =
        .next (notify (listed (afterPick metered o) i (unicastKey o c)) (flagEdge s o n ++ captures s o))

/-- The departure of a copy on `o` (R93, R94, R125): `o` leaves both sets of its entry; an entry left with other outputs keeps
its place and frees none; an entry left with none leaves its list and frees its place under key M, here where its input is
not DRAINING or still holds a cell or an entry afterwards; and everything else is as at the departure of a cell. -/
def Obligations.CopyDeparture : Prop :=
  ∀ (s : State) (o i : PortId) (v : Service) (header payload : List Byte) (before after : List CopyEntry)
    (e : CopyEntry),
    let x := s.port o
    let n := x.monitor.waiting - 1
    x.tx.state = .sending → x.tx.service = some v → v.started = true → v.src = .copy i →
    x.tx.onLink = some (.cell header payload) → (s.port i).copies = before ++ e :: after →
    e.inService.has o = true → (∀ a ∈ before, a.inService.has o = false) → (∀ m, MeterLaw (s.meters.get m)) →
      let sent := withPort s o { x with
        counters := countedUp x .departed
        arbiter := { x.arbiter with level := min (x.arbiter.level + x.arbiter.rate) (256 * x.arbiter.burst) }
        tx := { x.tx with
          state := .idle, service := none, onLink := none, closed := some .whole, spacing := x.tx.spacing + 1
          wordOwed := true } }
      let metered (left : State) : State := { waited left o n with
        meters := .ofFn fun m => meterAfter (s.meters.get m) o { input := i, cls := e.cls, copy := true } }
      (e.remaining.drop o ≠ OutSet.empty →
        exec (.departure o) s =
          .next (notify
            (afterPick (metered (withPort sent i { sent.port i with
              copies := before ++
                { e with remaining := e.remaining.drop o, inService := e.inService.drop o } :: after })) o)
            (flagEdge s o n ++ captures s o))) ∧
      (e.remaining.drop o = OutSet.empty →
        ((s.port i).admin ≠ .draining ∨ before ++ after ≠ [] ∨ ∃ q d, (s.port i).queue q d ≠ []) →
        exec (.departure o) s =
          .next (notify
            (listed (afterPick (metered (withPort sent i { sent.port i with
              copies := before ++ after
              account := freedAccount (s.port i) keyM })) o) i keyM)
            (flagEdge s o n ++ captures s o)))

/-- The last cell of a DRAINING input departs, or the last copy of its last entry (R162): its port becomes DISABLED in that event,
DRAIN_DONE is latched by every unit that has it enabled, and nothing is left in the part for its output. -/
def Obligations.LastDepartureEndsTheDrain : Prop :=
  ∀ (s : State) (o i : PortId) (v : Service),
    (s.port o).tx.state = .sending → (s.port o).tx.service = some v → v.started = true → (s.port i).admin = .draining →
    ((∃ c e, v.src = .cell i c ∧ (s.port i).queue o c = [e] ∧ (s.port i).copies = [] ∧
        ∀ q d, ¬ (q = o ∧ d = c) → (s.port i).queue q d = []) ∨
      ∃ e, v.src = .copy i ∧ (s.port i).copies = [e] ∧ e.inService.has o = true ∧
        e.remaining.drop o = OutSet.empty ∧ ∀ q d, (s.port i).queue q d = []) →
      ∃ t, exec (.departure o) s = .next t ∧ (t.port i).admin = .disabled ∧ (t.port i).holdsNothing = true ∧
        (∀ j q, (t.port j).queue i q = []) ∧ (∀ j, ∀ a ∈ (t.port j).copies, a.remaining.has i = false) ∧
        ∀ sp, (s.units.get sp).drainDone = true → (⟨.drainDone, i.val⟩ : NoticePair) ∈ (t.units.get sp).latched

/-- HOLD in UP (R132, R46): a cell in service is marked aborted, a crosspoint head gets its restart flag, a cell on the link is
closed with an abort mark, and the transmitter goes to HELD with its timer started unless the limit is OFF; an IDLE
transmitter goes to HELD; and HELD and STALLED ignore it. The started mark is kept, which is the model's reading
(assumption 9). -/
def Obligations.HoldStopsTheOutput : Prop :=
  ∀ (s : State) (p : PortId),
    let x := s.port p
    let held (service : Option Service) : Transmitter := { x.tx with
      state := .held, service := service, timer := if x.tx.limit = .off then none else some x.tx.limit }
    x.rx.locked = true → x.rx.link = .up →
      (∀ v i c e rest header payload, x.tx.state = .sending → x.tx.service = some v → v.src = .cell i c →
        (s.port i).queue p c = e :: rest → x.tx.onLink = some (.cell header payload) →
        let marked := withPort s i { s.port i with
          queues := (s.port i).queues.put (queueNo p c) ({ e with restart := true } :: rest) }
        exec (.hold p) s = .next (withPort marked p { marked.port p with
          tx := aborted (held (some { v with aborted := true })) })) ∧
      (∀ v i c e rest, x.tx.state = .sending → x.tx.service = some v → v.src = .cell i c →
        (s.port i).queue p c = e :: rest → x.tx.onLink.any isCell = false →
        let marked := withPort s i { s.port i with
          queues := (s.port i).queues.put (queueNo p c) ({ e with restart := true } :: rest) }
        exec (.hold p) s = .next (withPort marked p { marked.port p with
          tx := held (some { v with aborted := true }) })) ∧
      (∀ v i header payload, x.tx.state = .sending → x.tx.service = some v → v.src = .copy i →
        x.tx.onLink = some (.cell header payload) →
        exec (.hold p) s = .next (withPort s p { x with
          tx := aborted (held (some { v with aborted := true })) })) ∧
      (∀ v i, x.tx.state = .sending → x.tx.service = some v → v.src = .copy i → x.tx.onLink.any isCell = false →
        exec (.hold p) s = .next (withPort s p { x with tx := held (some { v with aborted := true }) })) ∧
      (x.tx.state = .idle → x.tx.service = none → x.tx.onLink.any isCell = false →
        exec (.hold p) s = .next (withPort s p { x with tx := held none })) ∧
      (x.tx.state = .held ∨ x.tx.state = .stalled → exec (.hold p) s = .next s)

/-- RELEASE in UP (R133, R104): an aborted cell restarts without a pick; a HELD transmitter without a cell, and a STALLED one,
go to IDLE and the arbiter makes its check; the STALL level falls; and IDLE and SENDING ignore it. -/
def Obligations.ReleaseResumesTheOutput : Prop :=
  ∀ (s : State) (p : PortId),
    let x := s.port p
    x.rx.locked = true → x.rx.link = .up →
      (∀ v, x.tx.state = .held → x.tx.service = some v →
        exec (.release p) s = .next (withPort s p { x with tx := { x.tx with
          state := .sending, timer := none, service := some { v with aborted := false, started := false } } })) ∧
      (x.tx.state = .held → x.tx.service = none →
        exec (.release p) s =
          .next (afterPick (withPort s p { x with tx := { x.tx with state := .idle, timer := none } }) p)) ∧
      (x.tx.state = .stalled →
        exec (.release p) s =
          .next (notify (afterPick (withPort s p { x with tx := { x.tx with state := .idle } }) p)
            [.stall p false])) ∧
      (x.tx.state = .idle ∨ x.tx.state = .sending → exec (.release p) s = .next s)

/-- The hold timer expires (R134, R61, R95): whatever drains complete with it, the transmitter is STALLED without a cell and
nothing waits for the output; and where no drain completes in the event, the flush and prune are all that happens elsewhere,
the port's own account gains the places its input lost, what was removed is counted FLUSHED, and the STALL level rises. -/
def Obligations.HoldTimerExpiryStalls : Prop :=
  ∀ (s : State) (o : PortId),
    let x := s.port o
    x.tx.state = .held → x.tx.timer ≠ none → x.tx.onLink.any isCell = false →
      ∃ t, exec (.holdTimerExpiry o) s = .next t ∧
        (t.port o).tx.state = .stalled ∧ (t.port o).tx.service = none ∧ (t.port o).tx.timer = none ∧
        (∀ i q, (t.port i).queue o q = []) ∧ (∀ i, ∀ e ∈ (t.port i).copies, e.remaining.has o = false) ∧
        (NoDrainEnds s t →
          FlushedToward o s t ∧ GainsLost o s t ∧
          (t.port o).tx = owed (flagAt s o (x.monitor.waiting - s.owed o) != x.monitor.flag) { x with
            tx := { x.tx with state := .stalled, service := none, timer := none } } ∧
          (t.port o).rx = x.rx ∧ (t.port o).admin = x.admin ∧ (t.port o).guard = x.guard ∧
          (t.port o).counters = flushedCounters s o x.counters ∧ t.spi = s.spi ∧
          t.units = (notify s (flushEdge s o ++ [.stall o true])).units)

/-! ### Monitors and meters (chapter 8) -/

/-- THRESHOLDS from the holder (R144, R141, R142): TH is clamped to 1023, TL to below TH, and to 0 where TH is 0; both are
written and the flag is evaluated; a change raises the CONGESTION edge and owes every UP port that is not DISABLED the
map. -/
def Obligations.ThresholdsEvaluateTheFlag : Prop :=
  ∀ (s : State) (sp : SupPort) (o : PortId) (thHi thLo tlHi tlLo : Byte), s.master.holder = some sp →
    let m := (s.port o).monitor
    let th := min (thHi.toNat * 256 + thLo.toNat) 1023
    let tl := if th = 0 then 0 else min (tlHi.toNat * 256 + tlLo.toNat) (th - 1)
    let flag := if th = 0 then false else if th ≤ m.waiting then true else if m.waiting ≤ tl then false else m.flag
    let changes : Bool := flag != m.flag
    exec (.thresholds sp [portByte o, thHi, thLo, tlHi, tlLo]) s =
      .next ((notify
        { s with ports := .ofFn fun q =>
          let x := s.port q
          { x with
            monitor := if q = o then { m with th := th, tl := tl, flag := flag } else x.monitor
            tx := if changes = true ∧ x.rx.link = .up ∧ x.admin ≠ .disabled then
              { x.tx with congestionUpdate := true } else x.tx } }
        (if changes then [.congestion o flag] else [])).respond sp 0x44#8 .ok (.thresholds th tl m.waiting flag))

/-- METER_SET (R150), METER_START and METER_STOP (R151) and METER_CAPTURE (R152) from the holder: each changes its own meter
alone, as its state lets it, and raises no notice. -/
def Obligations.MeterCommandsActOnOneMeter : Prop :=
  ∀ (s : State) (sp : SupPort) (k : Fin 8), s.master.holder = some sp →
    let m := s.meters.get k
    let kByte : Byte := BitVec.ofNat 8 k.val
    let done (y : Meter) (code : Byte) (data : RespData) : State :=
      ({ s with meters := s.meters.put k y } : State).respond sp code .ok data
    (∀ (target : PortId) (selByte input modeByte nHi nLo : Byte) (sel : MeterSel) (mode : MeterMode),
      ((selByte, sel) ∈ [(0#8, MeterSel.all), (1#8, .express), (2#8, .bulk), (3#8, .multicast)] ∨
        selByte = 4#8 ∧ ∃ i : PortId, input = portByte i ∧ sel = .fromInput i) →
      (modeByte, mode) ∈ [(0#8, MeterMode.wrap), (1#8, .saturate)] →
      let y : Meter := { m with
        target := target, sel := sel, mode := mode, interval := nHi.toNat * 256 + nLo.toNat }
      let command := Instr.meterSet sp [kByte, portByte target, selByte, input, modeByte, nHi, nLo]
      (m.running = false → exec command s = .next (done y 0x50#8 (.meter y))) ∧
      (m.running = true → exec command s = .next (s.respond sp 0x50#8 .meterRunning .empty))) ∧
    (m.running = false →
      exec (.meterStart sp [kByte]) s =
        .next (done { m with running := true, count := 0, seen := 0 } 0x51#8
          (.meterStart false true 0 m.snapshot 0)) ∧
      exec (.meterStop sp [kByte]) s =
        .next (s.respond sp 0x52#8 .ok (.meterStop false m.count m.snapshot m.seen)) ∧
      exec (.meterCapture sp [kByte]) s = .next (s.respond sp 0x53#8 .ok (.meterCapture m.snapshot false))) ∧
    (m.running = true →
      exec (.meterStart sp [kByte]) s =
        .next (s.respond sp 0x51#8 .ok (.meterStart true true m.count m.snapshot m.seen)) ∧
      exec (.meterStop sp [kByte]) s =
        .next (done { m with running := false, count := 0, seen := 0 } 0x52#8
          (.meterStop false 0 m.snapshot 0)) ∧
      exec (.meterCapture sp [kByte]) s =
        .next (done { m with snapshot := m.count, count := 0, seen := 0 } 0x53#8 (.meterCapture m.count true)))

/-! ### Port administration and the other port commands (chapters 1, 2, 9 and 11) -/

/-- PORT_ADMIN ENABLE from the holder (R158, R159, R130): on an ENABLED port nothing but the response; from DRAINING the drain
is cancelled; from DISABLED the map is owed and the arbiter makes its check if the link is UP; and a port that is UP has a
credit issue in both cases. -/
def Obligations.PortAdminEnables : Prop :=
  ∀ (s : State) (sp : SupPort) (p : PortId), s.master.holder = some sp →
    let x := s.port p
    let up : Bool := x.rx.link == .up
    let enabled : Port := if up then ({ x with admin := .enabled } : Port).issue else { x with admin := .enabled }
    let mapped : Port := if up then { enabled with tx := { enabled.tx with congestionUpdate := true } } else enabled
    let command := Instr.portAdminEnable sp [portByte p, 0#8]
    (x.admin = .enabled →
      exec command s = .next (s.respond sp 0x20#8 .ok
        (.portAdmin .enabled .enabled false x.epoch false x.rx.link x.available))) ∧
    (x.admin = .draining →
      exec command s = .next ((withPort s p enabled).respond sp 0x20#8 .ok
        (.portAdmin .draining .enabled up enabled.epoch false x.rx.link enabled.available))) ∧
    (x.admin = .disabled →
      exec command s = .next ((afterPick (withPort s p mapped) p).respond sp 0x20#8 .ok
        (.portAdmin .disabled .enabled up enabled.epoch false x.rx.link enabled.available)))

/-- PORT_ADMIN DRAIN from the holder (R158, R160, R162): an ENABLED port whose input holds a cell becomes DRAINING with its
credits withdrawn; one whose input holds nothing completes at once: DISABLED, its output flushed, and DRAIN_DONE raised (the
rest stated where no other drain completes in the event); in DRAINING and DISABLED nothing but the response. That the port's
own transmitter gets no congestion update from the flag change of its own drain is the model's order (assumption 10). -/
def Obligations.PortAdminDrains : Prop :=
  ∀ (s : State) (sp : SupPort) (p : PortId), s.master.holder = some sp →
    let x := s.port p
    let command := Instr.portAdminDrain sp [portByte p, 1#8]
    (x.admin = .enabled → x.holdsNothing = false →
      exec command s = .next ((withPort s p { x with admin := .draining, account := withdrawn x.account }).respond
        sp 0x20#8 .ok (.portAdmin .enabled .draining false x.epoch false x.rx.link x.available))) ∧
    (x.admin = .enabled → x.holdsNothing = true →
      ∃ t, exec command s = .next t ∧ (t.port p).admin = .disabled ∧ (t.port p).account = withdrawn x.account ∧
        (∀ i q, (t.port i).queue p q = []) ∧ (∀ i, ∀ e ∈ (t.port i).copies, e.remaining.has p = false) ∧
        t.spi = (s.respond sp 0x20#8 .ok
          (.portAdmin .enabled .disabled false x.epoch true x.rx.link false)).spi ∧
        (NoOtherDrainEnds p s t →
          FlushedToward p s t ∧ (t.port p).rx = x.rx ∧ (t.port p).guard = x.guard ∧ (t.port p).tx = dropped x.tx ∧
          (t.port p).counters = flushedCounters s p x.counters ∧
          t.units = (notify s (flushEdge s p ++ [.drainDone p])).units)) ∧
    (x.admin = .draining ∨ x.admin = .disabled →
      exec command s = .next (s.respond sp 0x20#8 .ok
        (.portAdmin x.admin x.admin false x.epoch false x.rx.link x.available)))

/-- PORT_ADMIN DISABLE from the holder (R158, R161, R126): from ENABLED and DRAINING the port is DISABLED with its credits
withdrawn, nothing is left for its output, and a drain ends without DRAIN_DONE (the rest stated where no other drain completes
in the event); in DISABLED nothing but the response. That the port's own transmitter gets no congestion update from the flag
change of its own DISABLE is the model's order (assumption 10), and that the response tells of no other port's drain is its
choice (assumption 19). -/
def Obligations.PortAdminDisables : Prop :=
  ∀ (s : State) (sp : SupPort) (p : PortId), s.master.holder = some sp →
    let x := s.port p
    let command := Instr.portAdminDisable sp [portByte p, 2#8]
    (x.admin = .enabled ∨ x.admin = .draining →
      ∃ t, exec command s = .next t ∧ (t.port p).admin = .disabled ∧ (t.port p).account = withdrawn x.account ∧
        (∀ i q, (t.port i).queue p q = []) ∧ (∀ i, ∀ e ∈ (t.port i).copies, e.remaining.has p = false) ∧
        t.spi = (s.respond sp 0x20#8 .ok
          (.portAdmin x.admin .disabled false x.epoch false x.rx.link false)).spi ∧
        (NoOtherDrainEnds p s t →
          FlushedToward p s t ∧ (t.port p).rx = x.rx ∧ (t.port p).guard = x.guard ∧ (t.port p).tx = dropped x.tx ∧
          (t.port p).counters = flushedCounters s p x.counters ∧
          t.units = (notify s (flushEdge s p)).units)) ∧
    (x.admin = .disabled →
      exec command s = .next (s.respond sp 0x20#8 .ok
        (.portAdmin .disabled .disabled false x.epoch false x.rx.link false)))

/-- PORT_RESET from the holder (R19, R165, R43, R191): the qualifier is DOWN with its counts 0 and H, Q and F kept, the guard
record and the port counters are cleared, and FROZEN falls if it stood; a port that was UP leaves it with every effect of
R20 (the rest stated where no drain completes in the event; the end of the unit on its link is assumption 8); one that was not
changes nothing else. -/
def Obligations.PortResetClearsThePort : Prop :=
  ∀ (s : State) (sp : SupPort) (p : PortId), s.master.holder = some sp →
    let x := s.port p
    let down : Receiver := { x.rx with locked := false, link := .down, holdoff := 0, good := 0, bad := 0 }
    let cleared : Guard := { x.guard with state := .normal, first := none, count := 0 }
    let thawed : List Notice := if x.guard.state = .frozen then [.frozen p false] else []
    (x.rx.link ≠ .up →
      exec (.portReset sp [portByte p]) s =
        .next ((notify (withPort s p { x with rx := down, guard := cleared, counters := .fill 0 }) thawed).respond
          sp 0x21#8 .ok (.portReset x.rx.link false x.admin false))) ∧
    (x.rx.link = .up →
      ∃ t, exec (.portReset sp [portByte p]) s = .next t ∧ LeftUp x (t.port p) ∧ (t.port p).guard = cleared ∧
        (t.port p).counters = .fill 0 ∧ (t.port p).epoch = x.epoch ∧
        (∀ i q, (t.port i).queue p q = []) ∧ (∀ i, ∀ e ∈ (t.port i).copies, e.remaining.has p = false) ∧
        (NoDrainEnds s t →
          FlushedToward p s t ∧ (t.port p).admin = x.admin ∧
          t.spi = (s.respond sp 0x21#8 .ok (.portReset .up true x.admin false)).spi ∧
          t.units = (notify s ([.link p false] ++ flushEdge s p ++ thawed ++
            if x.tx.state = .stalled then [.stall p false] else [])).units))

/-- LINK_PARAMS (R13), GUARD_SET (R40), GUARD_RESUME (R41) and COUNTERS_CLEAR (R190) from the holder: each changes its own
register of the named port alone. PORT_RESYNC from the holder (R58): on an UP and ENABLED port a credit issue, with the mark
and the new epoch in the response; otherwise nothing but the response, with the mark clear and the epoch as it stands. -/
def Obligations.PortSettingsAreWritten : Prop :=
  ∀ (s : State) (sp : SupPort) (p : PortId), s.master.holder = some sp →
    let x := s.port p
    (∀ hHi hLo q f : Byte,
      let h' := min (hHi.toNat * 256 + hLo.toNat) 255
      let q' := if q.toNat = 0 then 1 else min q.toNat 31
      let f' := if f.toNat = 0 then 1 else min f.toNat 31
      exec (.linkParams sp [portByte p, hHi, hLo, q, f]) s =
        .next ((withPort s p { x with rx := { x.rx with h := h', q := q', f := f' } }).respond sp 0x23#8 .ok
          (.linkParams h' q' f'))) ∧
    (∀ modeByte mode tolByte tol,
      (modeByte, mode) ∈ [(0#8, GuardMode.report), (1#8, .freeze)] → (tolByte, tol) ∈ [(0#8, false), (1#8, true)] →
      let freezes : Prop := mode = .freeze ∧ x.guard.first ≠ none
      let g : Guard := { x.guard with
        mode := mode, tolerate := tol, state := if mode = .freeze ∧ x.guard.first ≠ none then .frozen else x.guard.state }
      (freezes → x.guard.state = .normal →
        exec (.guardSet sp [portByte p, modeByte, tolByte]) s =
          .next ((notify (withPort s p { x with guard := g }) [.frozen p true]).respond sp 0x24#8 .ok (.guard g))) ∧
      (¬ (freezes ∧ x.guard.state = .normal) →
        exec (.guardSet sp [portByte p, modeByte, tolByte]) s =
          .next ((withPort s p { x with guard := g }).respond sp 0x24#8 .ok (.guard g)))) ∧
    (let g : Guard := { x.guard with state := .normal, first := none, count := 0 }
      let thawed : List Notice := if x.guard.state = .frozen then [.frozen p false] else []
      exec (.guardResume sp [portByte p]) s =
        .next ((notify (withPort s p { x with guard := g }) thawed).respond sp 0x25#8 .ok (.guard g))) ∧
    (exec (.countersClear sp [portByte p]) s =
      .next ((withPort s p { x with counters := .fill 0 }).respond sp 0x54#8 .ok .empty)) ∧
    (x.rx.link = .up ∧ x.admin = .enabled →
      exec (.portResync sp [portByte p]) s =
        .next ((withPort s p x.issue).respond sp 0x22#8 .ok (.resync true (x.epoch + 1#3)))) ∧
    (¬ (x.rx.link = .up ∧ x.admin = .enabled) →
      exec (.portResync sp [portByte p]) s = .next (s.respond sp 0x22#8 .ok (.resync false x.epoch)))

/-- FABRIC_RESET from the holder (R183 and the rules it names: R43, R63, R99, R121, R137, R146, R155, R166, R191). A cell on the
link is closed with an abort mark (R137), which ends it (R127, R128; assumption 8). That a DRAINING port gets no congestion
update from the falling flags, because it is DISABLED first, is the model's order (assumption 10). -/
def Obligations.FabricResetClearsTraffic : Prop :=
  ∀ (s : State) (sp : SupPort), s.master.holder = some sp →
    ∃ t, exec (.fabricReset sp []) s = .next t ∧
      (∀ p,
        let x := s.port p
        let y := t.port p
        let lends : Prop := x.rx.link = .up ∧ x.admin = .enabled
        y.rx = x.rx ∧
        y.guard = { x.guard with state := .normal, first := none, count := 0 } ∧
        y.admin = (if x.admin = .draining then .disabled else x.admin) ∧
        (∀ o c, y.queue o c = []) ∧ y.copies = [] ∧ y.counters = .fill 0 ∧
        y.monitor = { x.monitor with waiting := 0, flag := flagAfter x.monitor.th x.monitor.tl 0 x.monitor.flag } ∧
        y.arbiter = { x.arbiter with
          allowance := .fill 0, bulkPtr := 23, sparePtr := 23, expressPtr := 23, turn := .fill .unicast, level := 0
          rounds := 0#32 } ∧
        y.tx.state = (if x.rx.link = .up then .idle else .down) ∧ y.tx.service = none ∧ y.tx.timer = none ∧
        y.tx.limit = x.tx.limit ∧
        (x.tx.onLink.any isCell = false →
          y.tx.onLink = x.tx.onLink ∧ y.tx.closed = x.tx.closed ∧ y.tx.spacing = x.tx.spacing ∧
          y.tx.wordOwed = x.tx.wordOwed) ∧
        (x.tx.onLink.any isCell = true →
          y.tx.onLink = none ∧ y.tx.closed = some .abortMark ∧ y.tx.spacing = x.tx.spacing + 1 ∧ y.tx.wordOwed = true) ∧
        y.tx.congestionUpdate = (x.tx.congestionUpdate ||
          decide (x.rx.link = .up ∧ x.admin = .enabled ∧
            ∃ o, flagAt s o 0 ≠ (s.port o).monitor.flag)) ∧
        (lends →
          y.epoch = x.epoch + 1#3 ∧ y.tx.resyncWord = some (x.epoch + 1#3) ∧
          y.account = { outstanding := .fill 0, pending := .ofFn capacity, returnList := allKeys, resyncPending := true
                        inFlight := x.account.inFlight.map fun w => { w with void := true } }) ∧
        (¬ lends →
          y.epoch = x.epoch ∧ y.tx.resyncWord = x.tx.resyncWord ∧ y.account = withdrawn x.account)) ∧
      (∀ m, t.meters.get m = { s.meters.get m with running := false, count := 0, snapshot := 0, seen := 0 }) ∧
      t.groups = s.groups ∧ t.master = s.master ∧ t.pending = s.pending ∧
      t.units = (notify s (
        (allPorts.flatMap fun o => flagEdge s o 0) ++
        (allPorts.filter fun p => (s.port p).guard.state == .frozen).map (Notice.frozen · false) ++
        (allPorts.filter fun p => (s.port p).tx.state == .stalled).map (Notice.stall · false) ++
        (allPorts.filter fun p => (s.port p).admin == .draining).map Notice.drainDone)).units ∧
      t.spi = (s.respond sp 0x61#8 .ok (.fabricReset
        (allPorts.filter fun p => (s.port p).rx.link == .up && (s.port p).admin == .enabled)
        (allPorts.filter fun p => (s.port p).admin == .draining))).spi

/-! ### Management ports and mastership (chapter 10) -/

/-- CLAIM (R177): from NONE, or from the other port's ALERTED mastership, the claimant becomes holder with the timer started
and CHANGE raised; from the other port's HEALTHY mastership it is answered ALREADY_HELD; from the holder nothing changes. -/
def Obligations.ClaimIsDecidedByHolderAndHealth : Prop :=
  ∀ (s : State) (sp : SupPort),
    let m := s.master
    let taken : State := { s with master :=
      { holder := some sp, health := .healthy, pointer := .expectA, armed := false, timer := some m.period
        period := m.period } }
    (m.holder = none ∨ m.holder ≠ some sp ∧ m.health = .alerted →
      exec (.claim sp []) s = .next ((notify taken [.change]).respond sp 0x10#8 .ok (.claim true))) ∧
    (m.holder = some sp → exec (.claim sp []) s = .next (s.respond sp 0x10#8 .ok (.claim false))) ∧
    (m.holder ≠ none → m.holder ≠ some sp → m.health = .healthy →
      exec (.claim sp []) s = .next (s.respond sp 0x10#8 .alreadyHeld .empty))

/-- RELINQUISH (R178): from the holder, the holder becomes NONE with the values of R176, CHANGE is raised, and nothing else
changes; from any other port NOT_MASTER and no change. -/
def Obligations.RelinquishGivesUpMastership : Prop :=
  ∀ (s : State) (sp : SupPort) (args : List Byte),
    (s.master.holder = some sp →
      exec (.relinquish sp []) s =
        .next ((notify { s with master :=
          { holder := none, health := .healthy, pointer := .expectA, armed := false, timer := none
            period := s.master.period } } [.change]).respond sp 0x11#8 .ok .empty)) ∧
    (s.master.holder ≠ some sp → exec (.relinquish sp args) s = .next (s.respond sp 0x11#8 .notMaster .empty))

/-- KEEPALIVE from the holder (R179), row by row. The mastership timer expires (R180): HEALTHY becomes ALERTED with ALERT raised
and the timer restarted; ALERTED lapses to NONE with CHANGE raised. TIMER_PERIOD from the holder (R181) writes the period
code, and a running timer keeps its own. -/
def Obligations.KeepaliveTimerAndPeriod : Prop :=
  (∀ (s : State) (sp : SupPort), s.master.holder = some sp →
     let m := s.master
     let done (m' : Mastership) (restarted : Bool) : State :=
       ({ s with master := m' } : State).respond sp 0x12#8 .ok (.keepalive restarted m'.pointer)
     (m.pointer = .expectA →
       exec (.keepalive sp [0#8]) s = .next (done { m with armed := true, pointer := .expectB } false)) ∧
     (m.pointer = .expectB →
       exec (.keepalive sp [0#8]) s = .next (done { m with armed := false, pointer := .expectA } false)) ∧
     (m.pointer = .expectB → m.armed = true →
       exec (.keepalive sp [1#8]) s = .next (done { m with
         timer := some m.period, health := .healthy, armed := false, pointer := .expectA } true)) ∧
     (m.pointer = .expectB → m.armed = false →
       exec (.keepalive sp [1#8]) s = .next (done { m with armed := false, pointer := .expectA } false)) ∧
     (m.pointer = .expectA →
       exec (.keepalive sp [1#8]) s = .next (done { m with armed := false, pointer := .expectB } false))) ∧
  (∀ s : State,
     (s.master.timer ≠ none → s.master.health = .healthy →
       exec .mastershipTimerExpiry s =
         .next (notify { s with master := { s.master with health := .alerted, timer := some s.master.period } }
           [.alert])) ∧
     (s.master.timer ≠ none → s.master.health = .alerted →
       exec .mastershipTimerExpiry s =
         .next (notify { s with master :=
           { holder := none, health := .healthy, pointer := .expectA, armed := false, timer := none
             period := s.master.period } } [.change])) ∧
     ∀ sp code period, s.master.holder = some sp →
       (code, period) ∈ [(0#8, Period.ms50), (1#8, .ms200), (2#8, .s1), (3#8, .s4)] →
       exec (.timerPeriod sp [code]) s =
         .next (({ s with master := { s.master with period := period } } : State).respond sp 0x60#8 .ok
           (.timerPeriod period s.master.timer)))

/-- What data-out carries (R167): 0xFF on every byte until the record is complete and until the response is ready, then the start
byte 0xA5 and the response record, and then 0xFF, each byte with its most significant bit first. A transaction that ends early (R168) and a record that names no command
(R171): each changes its own management port alone; the partial record is discarded, a response not shifted out is lost, and
no later transaction returns it (that one row stands for both early ends is assumption 6). -/
def Obligations.AbandonedAndUnknownRecords : Prop :=
  (∀ (p : SpiPort) (record : List Byte) (wait : Nat), recordComplete record = true →
    (∀ n, n < record.length → p.dataOut (record.take n) wait = List.replicate n 0xFF#8) ∧
    ∀ (r : Response) (after : List Byte), p.response = some r →
      (p.dataOut (record ++ after) wait).length = record.length + after.length ∧
      ∀ n, n < record.length + after.length →
        (p.dataOut (record ++ after) wait)[n]? =
          some (if n < record.length + wait then 0xFF#8
            else (0xA5#8 :: r.record).getD (n - (record.length + wait)) 0xFF#8)) ∧
  (∀ (p : SpiPort) (din : List Byte) (wait : Nat),
    let msbFirst (bytes : List Byte) : List Bool :=
      bytes.flatMap fun b => [7, 6, 5, 4, 3, 2, 1, 0].map fun k => b.getLsbD k
    ∀ n, p.dataOutBits ((msbFirst din).take n) wait = (msbFirst (p.dataOut din wait)).take n) ∧
  ∀ (s : State) (sp : SupPort),
    (∃ t, exec (.transactionAbandoned sp) s = .next t ∧
      t = { s with spi := s.spi.put sp { record := [], response := none } } ∧
      ∀ din wait, (t.spi.get sp).dataOut din wait = List.replicate din.length 0xFF#8) ∧
    ∀ record : List Byte, recordComplete record = true →
      (checkPasses record = false →
        exec (.unknownCommand sp record) s =
          .next (s.respond sp 0x00#8 .badArgument (.badArgument 0xFF#8))) ∧
      (checkPasses record = true → byteAt record 0 ∉ commandCodes →
        exec (.unknownCommand sp record) s =
          .next (s.respond sp (byteAt record 0) .unknownCommand .empty))

/-- The tests of R171 in their order. A command that needs mastership, from a port that is not the holder, is answered NOT_MASTER
whatever its arguments (test 3). A wrong argument length is answered BAD_ARGUMENT with data 0xFE (test 4), for the commands of
the holder after the test of mastership. Nothing but the response changes. -/
def Obligations.MastershipAndLengthAreTestedFirst : Prop :=
  (∀ (c : Instr) (s : State) (sp : SupPort) (code : Byte),
     holderCommand c = some (sp, code) → s.master.holder ≠ some sp →
       exec c s = .next (s.respond sp code .notMaster .empty)) ∧
  ((∀ (c : Instr) (s : State) (sp : SupPort) (code : Byte) (n : Nat) (args : List Byte),
     openCommand c = some (sp, code, n, args) → args.length ≠ n →
       exec c s = .next (s.respond sp code .badArgument (.badArgument 0xFE#8))) ∧
   (∀ (c : Instr) (s : State) (sp : SupPort) (code : Byte) (n : Nat) (args : List Byte),
     holderCommand c = some (sp, code) → holderLength c = some (n, args) → s.master.holder = some sp →
     args.length ≠ n →
       exec c s = .next (s.respond sp code .badArgument (.badArgument 0xFE#8))) ∧
   ∀ (s : State) (sp : SupPort),
     exec (.noticesClear sp []) s = .next (s.respond sp 0x0D#8 .badArgument (.badArgument 0xFE#8)) ∧
     ∀ (count : Byte) (rest : List Byte), rest.length ≠ 2 * count.toNat →
       exec (.noticesClear sp (count :: rest)) s = .next (s.respond sp 0x0D#8 .badArgument (.badArgument 0xFE#8)))

/-- An argument out of range or a code that names no value is answered BAD_ARGUMENT with the position of the first argument
refused, and nothing else changes (R170, R171, test 5). For NOTICES_CLEAR the position counts the count byte as 1, and its
pairs from 2 on (the model's reading, assumption 12). -/
def Obligations.BadArgumentsAreRefused : Prop :=
  ∀ (s : State) (sp : SupPort) (x : Byte),
    let no (code : Byte) (position : Nat) : Host.Outcome State Fault Refusal :=
      .next (s.respond sp code .badArgument (.badArgument (BitVec.ofNat 8 position)))
    (24 ≤ x.toNat →
      exec (.portRead sp [x]) s = no 0x02#8 1 ∧ exec (.replicationRead sp [x]) s = no 0x04#8 1 ∧
      exec (.creditRead sp [x]) s = no 0x05#8 1 ∧ exec (.arbiterRead sp [x]) s = no 0x08#8 1 ∧
      exec (.monitorRead sp [x]) s = no 0x09#8 1 ∧ exec (.countersRead sp [x]) s = no 0x0B#8 1 ∧
      (∀ y, exec (.queueRead sp [x, y]) s = no 0x03#8 1) ∧
      ∀ p : PortId, exec (.queueRead sp [portByte p, x]) s = no 0x03#8 2) ∧
    (8 ≤ x.toNat → exec (.meterRead sp [x]) s = no 0x0A#8 1) ∧
    (∀ hi lo, 256 ≤ hi.toNat * 256 + lo.toNat → exec (.groupRead sp [hi, lo, x]) s = no 0x06#8 1) ∧
    (4 ≤ x.toNat → ∀ lo, exec (.groupRead sp [0#8, lo, x]) s = no 0x06#8 2) ∧
    (∀ hi lo, 4096 ≤ hi.toNat * 256 + lo.toNat → exec (.groupProbe sp [hi, lo, x]) s = no 0x07#8 1) ∧
    (2 ≤ x.toNat → ∀ hi lo, hi.toNat * 256 + lo.toNat < 4096 →
      exec (.groupProbe sp [hi, lo, x]) s = no 0x07#8 2) ∧
    (10 ≤ x.toNat → ∀ y, exec (.noticeConfig sp [x, y]) s = no 0x0E#8 1) ∧
    (∀ kind, (kind.toNat < 4 ∧ 4 ≤ x.toNat) ∨ (4 ≤ kind.toNat ∧ kind.toNat < 10 ∧ 2 ≤ x.toNat) →
      exec (.noticeConfig sp [kind, x]) s = no 0x0E#8 2) ∧
    (8 < x.toNat → ∀ rest : List Byte, rest.length = 2 * x.toNat → exec (.noticesClear sp (x :: rest)) s = no 0x0D#8 1) ∧
    (∀ (good : List NoticePair) (kind index : Byte) (rest : List Byte),
      let pairs := (good.flatMap fun y => [BitVec.ofNat 8 y.kind.code, BitVec.ofNat 8 y.index]) ++ kind :: index :: rest
      x.toNat ≤ 8 → pairs.length = 2 * x.toNat → (∀ y ∈ good, y.index < y.kind.indices) →
      (10 ≤ kind.toNat → exec (.noticesClear sp (x :: pairs)) s = no 0x0D#8 (2 + 2 * good.length)) ∧
      ∀ k : NoticeKind, kind.toNat = k.code → k.indices ≤ index.toNat →
        exec (.noticesClear sp (x :: pairs)) s = no 0x0D#8 (3 + 2 * good.length)) ∧
    (s.master.holder = some sp →
      (24 ≤ x.toNat →
        exec (.portReset sp [x]) s = no 0x21#8 1 ∧ exec (.portResync sp [x]) s = no 0x22#8 1 ∧
        exec (.guardResume sp [x]) s = no 0x25#8 1 ∧ exec (.countersClear sp [x]) s = no 0x54#8 1 ∧
        (∀ a, exec (.portAdminEnable sp [x, a]) s = no 0x20#8 1 ∧ exec (.portAdminDrain sp [x, a]) s = no 0x20#8 1 ∧
          exec (.portAdminDisable sp [x, a]) s = no 0x20#8 1 ∧ exec (.holdLimit sp [x, a]) s = no 0x43#8 1) ∧
        (∀ a b, exec (.guardSet sp [x, a, b]) s = no 0x24#8 1 ∧ exec (.weightStage sp [x, a, b]) s = no 0x40#8 1) ∧
        (∀ (p : PortId) a, exec (.weightStage sp [portByte p, x, a]) s = no 0x40#8 2) ∧
        (∀ ws : List Byte, ws.length = 24 → exec (.weightStageRow sp (x :: ws)) s = no 0x41#8 1) ∧
        (∀ a b c, exec (.expressSet sp [x, a, b, c]) s = no 0x42#8 1) ∧
        (∀ a b c d, exec (.linkParams sp [x, a, b, c, d]) s = no 0x23#8 1 ∧
          exec (.thresholds sp [x, a, b, c, d]) s = no 0x44#8 1) ∧
        (∀ (m : Fin 8) a b c d e,
          exec (.meterSet sp [BitVec.ofNat 8 m.val, x, a, b, c, d, e]) s = no 0x50#8 2) ∧
        ∀ (m : Fin 8) (p : PortId) b c d,
          exec (.meterSet sp [BitVec.ofNat 8 m.val, portByte p, 4#8, x, b, c, d]) s = no 0x50#8 4) ∧
      (8 ≤ x.toNat →
        exec (.meterStart sp [x]) s = no 0x51#8 1 ∧ exec (.meterStop sp [x]) s = no 0x52#8 1 ∧
        exec (.meterCapture sp [x]) s = no 0x53#8 1 ∧
        ∀ a b c d e f, exec (.meterSet sp [x, a, b, c, d, e, f]) s = no 0x50#8 1) ∧
      (5 ≤ x.toNat → ∀ (m : Fin 8) (p : PortId) a b c d,
        exec (.meterSet sp [BitVec.ofNat 8 m.val, portByte p, x, a, b, c, d]) s = no 0x50#8 3) ∧
      (2 ≤ x.toNat → ∀ (m : Fin 8) (p : PortId) sel a c d, sel.toNat < 4 →
        exec (.meterSet sp [BitVec.ofNat 8 m.val, portByte p, sel, a, x, c, d]) s = no 0x50#8 5) ∧
      (∀ hi lo, 256 ≤ hi.toNat * 256 + lo.toNat → exec (.groupRemove sp [hi, lo, x]) s = no 0x31#8 1) ∧
      (4 ≤ x.toNat → ∀ lo, exec (.groupRemove sp [0#8, lo, x]) s = no 0x31#8 2) ∧
      (∀ hi lo, 4096 ≤ hi.toNat * 256 + lo.toNat →
        exec (.groupRemoveId sp [hi, lo]) s = no 0x32#8 1 ∧
        ∀ a b c d e, exec (.groupInstall sp [hi, lo, x, a, b, c, d, e]) s = no 0x30#8 1) ∧
      (∀ hi lo, hi.toNat * 256 + lo.toNat < 4096 →
        (4 ≤ x.toNat → ∀ a b c d e, exec (.groupInstall sp [hi, lo, x, a, b, c, d, e]) s = no 0x30#8 2) ∧
        (5 ≤ x.toNat → ∀ sel a b c d, sel.toNat < 4 →
          exec (.groupInstall sp [hi, lo, sel, a, b, c, d, x]) s = no 0x30#8 4)) ∧
      (∀ p : PortId,
        (3 ≤ x.toNat → exec (.portAdminEnable sp [portByte p, x]) s = no 0x20#8 2) ∧
        (2 ≤ x.toNat → ∀ a, exec (.guardSet sp [portByte p, x, a]) s = no 0x24#8 2) ∧
        (2 ≤ x.toNat → ∀ mode, mode.toNat < 2 → exec (.guardSet sp [portByte p, mode, x]) s = no 0x24#8 3) ∧
        (4 ≤ x.toNat → exec (.holdLimit sp [portByte p, x]) s = no 0x43#8 2)) ∧
      (2 ≤ x.toNat → exec (.keepalive sp [x]) s = no 0x12#8 1) ∧
      (4 ≤ x.toNat → exec (.timerPeriod sp [x]) s = no 0x60#8 1))

/-! ### Reading commands -/

/-- The reading commands (R172): each is answered OK from either port with the state as it stands, and changes nothing but the
response of its management port: STATUS (R174), PORT_READ (R175), QUEUE_READ (R48), REPLICATION_READ (R98), CREDIT_READ
(R64), ARBITER_READ (R120), MONITOR_READ (R145), METER_READ (R154), COUNTERS_READ (R190), GROUP_READ (R82) and GROUP_PROBE
(R83), which applies the test of a lookup and moves nothing. That PORT_READ gives the word-owed mark, which R122 asks for and
the list of R175 leaves out, and names the entry in service by its position, is the model's reading (assumption 13). -/
def Obligations.ReadsReturnTheStateAsItStands : Prop :=
  (∀ (s : State) (sp : SupPort),
     let flags : OutSet := OutSet.ofPred fun o => (s.port o).monitor.flag
     (exec (.status sp []) s = .next (s.respond sp 0x01#8 .ok
       (.status sp s.master
         (allPorts.map fun p =>
           { link := (s.port p).rx.link, admin := (s.port p).admin, tx := (s.port p).tx.state
             available := (s.port p).available })
         flags (s.units.get sp).latched.length (s.units.get sp).alarm))) ∧
     (∀ p : PortId,
       let x := s.port p
       (∃ entry, exec (.portRead sp [portByte p]) s = .next (s.respond sp 0x02#8 .ok (.port
         { rx := x.rx, admin := x.admin, epoch := x.epoch, guard := x.guard, tx := x.tx.state, service := x.tx.service
           entry := entry, timer := x.tx.timer, limit := x.tx.limit, congestionUpdate := x.tx.congestionUpdate
           resyncWord := x.tx.resyncWord, wordOwed := x.tx.wordOwed, spacing := x.tx.spacing
           available := x.available })) ∧
         (∀ v i, x.tx.service = some v → v.src = .copy i →
           entry = (s.port i).copies.findIdx? fun e => e.inService.has p)) ∧
       (exec (.replicationRead sp [portByte p]) s = .next (s.respond sp 0x04#8 .ok (.replication
         (x.copies.map fun e =>
           { group := e.group, cls := e.cls, remaining := e.remaining, inService := e.inService
             aborted := OutSet.ofPred fun o =>
               e.inService.has o && ((s.port o).tx.service.map (·.aborted)).getD false
             flow := e.flow, plane := e.plane })))) ∧
       (exec (.creditRead sp [portByte p]) s = .next (s.respond sp 0x05#8 .ok
         (.credit x.epoch x.account.resyncPending x.account.inFlight
           (allKeys.map fun k =>
             { occupancy := x.occupancy k, outstanding := x.account.outstanding.get k
               pending := x.account.pending.get k })
           x.account.returnList))) ∧
       (exec (.arbiterRead sp [portByte p]) s = .next (s.respond sp 0x08#8 .ok (.arbiter x.arbiter))) ∧
       (exec (.monitorRead sp [portByte p]) s = .next (s.respond sp 0x09#8 .ok
         (.monitor x.monitor.waiting
           ((allPorts.map fun i => ((s.port i).queue p .express).length).sum)
           ((allPorts.map fun i => ((s.port i).queue p .bulk).length).sum)
           ((allPorts.map fun i => (s.port i).copies.countP fun e => e.remaining.has p).sum)
           x.monitor.th x.monitor.tl x.monitor.flag flags))) ∧
       (exec (.countersRead sp [portByte p]) s = .next (s.respond sp 0x0B#8 .ok (.counters x.counters)))) ∧
     (∀ i o : PortId, ∃ express bulk,
       exec (.queueRead sp [portByte i, portByte o]) s =
         .next (s.respond sp 0x03#8 .ok (.queue express bulk)) ∧
       let shows (items : List QueueItem) (c : Machine.Class) : Prop :=
         items.length = ((s.port i).queue o c).length ∧
         ∀ n e, ((s.port i).queue o c)[n]? = some e → items[n]? = some (
           { flow := e.flow, plane := e.plane, restart := e.restart
             inService := decide (n = 0 ∧ (s.port o).tx.service.map (·.src) = some (.cell i c)) } : QueueItem)
       shows express .express ∧ shows bulk .bulk) ∧
     ∀ m : Fin 8, exec (.meterRead sp [BitVec.ofNat 8 m.val]) s =
       .next (s.respond sp 0x0A#8 .ok (.meter (s.meters.get m)))) ∧
  (∀ (s : State) (sp : SupPort),
     (∀ (set : Fin 256) (w : Fin 4),
       let g := s.groups.get set
       exec (.groupRead sp [0#8, BitVec.ofNat 8 set.val, BitVec.ofNat 8 w.val]) s =
         .next (s.respond sp 0x06#8 .ok
           (.group (g.ways.get w) ((g.ways.get w).tag * 256 + set.val)
             { root := g.root, l := g.l, r := g.r, victim := g.victim }))) ∧
     ∀ (hi lo code : Byte) (c : Machine.Class), hi.toNat * 256 + lo.toNat < 4096 →
       (code, c) ∈ [(0#8, Class.bulk), (1#8, .express)] →
       let g := s.groups.get (groupSet (hi.toNat * 256 + lo.toNat))
       exec (.groupProbe sp [hi, lo, code]) s =
         .next (s.respond sp 0x07#8 .ok
           (.probe
             ((g.hit (groupTag (hi.toNat * 256 + lo.toNat)) c).map fun w =>
               { way := w, fanout := (g.ways.get w).fanout, hits := (g.ways.get w).hits })
             { root := g.root, l := g.l, r := g.r, victim := g.victim })))

/-! ### Notices (chapter 11) -/

/-- A notice at a unit (R184, R186): an edge matches when the setting of its kind is BOTH, or RISE and it rises, or FALL and it
falls, and an event when its kind is enabled. One that matches joins the end of the set unless its pair is there, writes the
set number of an EVICT, and asserts the alarm line; one that does not match changes nothing. The notices of one event are
taken in order of kind code and, within a kind, of index. -/
def Obligations.NoticesLatchInOrder : Prop :=
  (∀ (u : NoticeUnit) (n : Notice),
    (u.takes n = false → u.latch n = u) ∧
    (u.takes n = true →
      u.latch n = { u with
        latched := if n.pair ∈ u.latched then u.latched else u.latched ++ [n.pair]
        evictSet := (u.latch n).evictSet
        alarm := true } ∧
      (∀ set, n = .evict set → (u.latch n).evictSet = set.val) ∧
      ((∀ set, n ≠ .evict set) → (u.latch n).evictSet = u.evictSet))) ∧
  (∀ (u : NoticeUnit) (p : PortId) (set : Fin 256) (m : Fin 8),
    let edge (setting : EdgeSetting) (rising : Bool) : Prop :=
      setting = .both ∨ setting = .rise ∧ rising = true ∨ setting = .fall ∧ rising = false
    (∀ rising,
      ((u.takes (.link p rising) = true ↔ edge u.link rising) ∧ (Notice.link p rising).pair = ⟨.link, p.val⟩) ∧
      ((u.takes (.congestion p rising) = true ↔ edge u.congestion rising) ∧
        (Notice.congestion p rising).pair = ⟨.congestion, p.val⟩) ∧
      ((u.takes (.frozen p rising) = true ↔ edge u.frozen rising) ∧ (Notice.frozen p rising).pair = ⟨.frozen, p.val⟩) ∧
      ((u.takes (.stall p rising) = true ↔ edge u.stall rising) ∧ (Notice.stall p rising).pair = ⟨.stall, p.val⟩)) ∧
    (u.takes (.fault p) = u.fault ∧ (Notice.fault p).pair = ⟨.fault, p.val⟩) ∧
    (u.takes (.drainDone p) = u.drainDone ∧ (Notice.drainDone p).pair = ⟨.drainDone, p.val⟩) ∧
    (u.takes (.evict set) = u.evict ∧ (Notice.evict set).pair = ⟨.evict, 0⟩) ∧
    (u.takes .alert = u.alert ∧ Notice.alert.pair = ⟨.alert, 0⟩) ∧
    (u.takes .change = u.change ∧ Notice.change.pair = ⟨.change, 0⟩) ∧
    (u.takes (.capture m) = u.capture ∧ (Notice.capture m).pair = ⟨.capture, m.val⟩)) ∧
  [NoticeKind.link, .congestion, .frozen, .stall, .fault, .drainDone, .evict, .alert, .change, .capture].map (·.code) =
    [0, 1, 2, 3, 4, 5, 6, 7, 8, 9] ∧
  ∀ l : List Notice,
    (sortNotices l).Perm l ∧
    (sortNotices l).Pairwise fun a b =>
      a.pair.kind.code < b.pair.kind.code ∨ a.pair.kind.code = b.pair.kind.code ∧ a.pair.index ≤ b.pair.index

/-- NOTICES_READ (R187), NOTICES_CLEAR (R188) and NOTICE_CONFIG (R185), from either port, on the requesting port's own unit
alone; and the levels of R184 as NOTICES_READ gives them, 0 for an event kind. -/
def Obligations.NoticeCommandsActOnTheOwnUnit : Prop :=
  ∀ (s : State) (sp : SupPort),
    let u := s.units.get sp
    (∀ p : PortId,
      (s.noticeLevel .link p.val = true ↔ (s.port p).rx.link = .up) ∧
      (s.noticeLevel .congestion p.val = true ↔ (s.port p).monitor.flag = true) ∧
      (s.noticeLevel .frozen p.val = true ↔ (s.port p).guard.state = .frozen) ∧
      (s.noticeLevel .stall p.val = true ↔ (s.port p).tx.state = .stalled)) ∧
    (∀ kind index, kind ∈ [NoticeKind.fault, .drainDone, .evict, .alert, .change, .capture] →
      s.noticeLevel kind index = false) ∧
    exec (.noticesRead sp []) s = .next (s.respond sp 0x0C#8 .ok
      (.notices u.latched.length (min u.latched.length 8)
        ((u.latched.take 8).map fun x =>
          { kind := x.kind, index := x.index, level := s.noticeLevel x.kind x.index })
        u.evictSet)) ∧
    (∀ pairs : List NoticePair, pairs.length ≤ 8 → (∀ x ∈ pairs, x.index < x.kind.indices) →
      let left := u.latched.filter fun x => x ∉ pairs
      exec (.noticesClear sp (BitVec.ofNat 8 pairs.length ::
          pairs.flatMap fun x => [BitVec.ofNat 8 x.kind.code, BitVec.ofNat 8 x.index])) s =
        .next (({ s with units := s.units.put sp { u with latched := left, alarm := !left.isEmpty } } : State).respond
          sp 0x0D#8 .ok (.cleared (u.latched.length - left.length) left.length))) ∧
    (∀ code e, (code, e) ∈ [(0#8, EdgeSetting.none), (1#8, .rise), (2#8, .fall), (3#8, .both)] →
      let done (v : NoticeUnit) (kind : NoticeKind) : Host.Outcome State Fault Refusal :=
        .next (({ s with units := s.units.put sp v } : State).respond sp 0x0E#8 .ok
          (.noticeConfig kind (.edge e) u.latched.length))
      exec (.noticeConfig sp [0#8, code]) s = done { u with link := e } .link ∧
      exec (.noticeConfig sp [1#8, code]) s = done { u with congestion := e } .congestion ∧
      exec (.noticeConfig sp [2#8, code]) s = done { u with frozen := e } .frozen ∧
      exec (.noticeConfig sp [3#8, code]) s = done { u with stall := e } .stall) ∧
    ∀ code on, (code, on) ∈ [(0#8, false), (1#8, true)] →
      let done (v : NoticeUnit) (kind : NoticeKind) : Host.Outcome State Fault Refusal :=
        .next (({ s with units := s.units.put sp v } : State).respond sp 0x0E#8 .ok
          (.noticeConfig kind (.enable on) u.latched.length))
      exec (.noticeConfig sp [4#8, code]) s = done { u with fault := on } .fault ∧
      exec (.noticeConfig sp [5#8, code]) s = done { u with drainDone := on } .drainDone ∧
      exec (.noticeConfig sp [6#8, code]) s = done { u with evict := on } .evict ∧
      exec (.noticeConfig sp [7#8, code]) s = done { u with alert := on } .alert ∧
      exec (.noticeConfig sp [8#8, code]) s = done { u with change := on } .change ∧
      exec (.noticeConfig sp [9#8, code]) s = done { u with capture := on } .capture

/-! ### Laws that every step keeps

Each is stated from every state that keeps it, whatever command stands at the front of the queue. -/

/-- R9 to R12, R37 to R41: the receiver is unlocked exactly in DOWN and its counts keep their ranges; a FROZEN guard has a fault
latched, and a latched fault in the FREEZE mode means FROZEN. -/
def Obligations.StepKeepsReceiversAndGuards : Prop :=
  ∀ s t : State, (∀ p, ReceiverLaw (s.port p).rx ∧ GuardLaw (s.port p).guard) → step s = .next t →
    ∀ p, ReceiverLaw (t.port p).rx ∧ GuardLaw (t.port p).guard

/-- R101, R112, R118: each allowance stays at most its current weight, and the bucket level at most 256 × B. R141, R144: a set
congestion flag implies a waiting count above TL, and a clear one a count below TH. -/
def Obligations.StepKeepsArbitersAndMonitors : Prop :=
  (∀ s t : State, (∀ p, ArbiterLaw (s.port p).arbiter) → step s = .next t → ∀ p, ArbiterLaw (t.port p).arbiter) ∧
  (∀ s t : State, (∀ p, MonitorLaw (s.port p).monitor) → step s = .next t → ∀ p, MonitorLaw (t.port p).monitor)

/-- R184, R186: a latched set holds no pair twice, and its alarm line is asserted exactly while it is not empty. R176: the
values while the holder is NONE, the timer that runs while a port holds, and the armed flag only with EXPECT_B. -/
def Obligations.StepKeepsNoticesAndMastership : Prop :=
  (∀ s t : State, (∀ sp, NoticeLaw (s.units.get sp)) → step s = .next t → ∀ sp, NoticeLaw (t.units.get sp)) ∧
  (∀ s t : State, MasterLaw s.master → step s = .next t → MasterLaw t.master)

/-- R73: no set holds two valid entries with equal tags and overlapping selectors. R147: a STOPPED meter's count and interval
counter are 0, and every field of a meter keeps its range. -/
def Obligations.StepKeepsGroupsAndMeters : Prop :=
  (∀ s t : State, (∀ g, GroupLaw (s.groups.get g)) → step s = .next t → ∀ g, GroupLaw (t.groups.get g)) ∧
  (∀ s t : State, (∀ m, MeterLaw (s.meters.get m)) → step s = .next t → ∀ m, MeterLaw (t.meters.get m))

/-- R44, R87, R89: every crosspoint entry stands in a queue of its class with a payload of 72 bytes; every replication entry has
a payload of 72 bytes, a remaining set that is not empty and an in-service set within it; and a cell on an egress link carries
8 header bytes and 72 payload bytes (R1, R124). R62, R95: nothing waits for an output that is unavailable. -/
def Obligations.StepKeepsEntries : Prop :=
  let law (s : State) : Prop :=
    ∀ p, QueueLaw (s.port p) ∧ (∀ e ∈ (s.port p).copies, CopyLaw e) ∧ CellOnLinkLaw (s.port p).tx
  (∀ s t : State, law s → step s = .next t → law t) ∧
  (∀ s t : State, UnavailableLaw s → step s = .next t → UnavailableLaw t)

/-- The conservation law of R49, with what it rests on: occupancy, outstanding and pending of every key of an UP and ENABLED
port sum to its capacity; every other port lends nothing, and a credit word it has on the link is void (R59, R54); no queue exceeds its capacity (R44, R86); the return list holds the keys with pending credit
(R51); an unvoided credit word is covered (R53); and a head in service stands in its queue (R46). -/
def Obligations.StepConservesCredits : Prop :=
  let law (s : State) : Prop := ∀ p, CreditLaw (s.port p) ∧ WithdrawnLaw (s.port p) ∧ CapacityLaw (s.port p) ∧ ReturnLaw (s.port p).account ∧
    WordLaw (s.port p).account ∧ HeadLaw s p
  ∀ s t : State, law s → step s = .next t → law t

/-- R122, R123, R126, R128, R52: the transmitter is DOWN exactly while its link is not UP, holds a cell in service exactly in
SENDING and, aborted, in HELD, and runs its timer only in HELD; a MARKER stands at every 256 units; and the record of a
credit word in flight stands exactly while the word is on the link. -/
def Obligations.StepKeepsTransmitters : Prop :=
  let law (s : State) : Prop := ∀ p, TransmitterLaw (s.port p) ∧ SpacingLaw (s.port p).tx ∧ FlightLaw (s.port p)
  ∀ s t : State, law s → step s = .next t → law t

/-- R139, R87: the waiting count of every output is the cells toward it and the entries that still owe it a copy, and an
output stands in the in-service set of the one entry whose copy its transmitter holds, with what these rest on. -/
def Obligations.StepKeepsWaitingCounts : Prop :=
  let law (s : State) : Prop := (∀ p, TransmitterLaw (s.port p) ∧ ∀ e ∈ (s.port p).copies, CopyLaw e) ∧ ServiceLaw s ∧
    WaitingLaw s
  ∀ s t : State, law s → step s = .next t → law t

/-- R162: a port is DRAINING only while its input holds a cell, so that every drain completes in the event that removes the
last one, whatever removes it: a port DRAINING before a step whose input holds nothing after it is DISABLED after it, and,
unless the step is the port's own DISABLE (R161) or the power-up reset, DRAIN_DONE is latched by every unit that has it
enabled. -/
def Obligations.StepCompletesDrains : Prop :=
  ∀ s t : State, (∀ p, DrainLaw (s.port p)) → step s = .next t →
    (∀ p, DrainLaw (t.port p)) ∧
    ∀ p, (s.port p).admin = .draining → (t.port p).holdsNothing = true →
      (t.port p).admin = .disabled ∧
      (s.pending.head? ≠ some .powerUpReset →
        (∀ sp action, s.pending.head? ≠ some (.portAdminDisable sp [portByte p, action])) →
        ∀ sp, (s.units.get sp).drainDone = true → (⟨.drainDone, p.val⟩ : NoticePair) ∈ (t.units.get sp).latched)

/-! ### Events that meet (sections 6.7 and 10.6) -/

/-- Two events that meet, in each order. At the arbiter (row 3 of R114): a completion on an output and a DISABLE of its port or
the loss of its lock. With the completion first, the cell departs, the bucket is refilled and no pick is made; with the other
first, the cell is dropped with everything that waits for the output and counted FLUSHED, and there is no refill. (That the
completion makes its pick where the other is no meeting but a later event is the model's choice, assumption 18.) At the
mastership unit (R182): a restarting B and an expiry, in HEALTHY and in ALERTED; a restarting B and a CLAIM from the other port
in ALERTED; RELINQUISH and a CLAIM; a CLAIM from the other port and an expiry in ALERTED; two CLAIMs while the holder is NONE;
and TIMER_PERIOD and a restarting B. An expiry does not happen where a restart is taken first. -/
def Obligations.EventsThatMeet : Prop :=
  (∀ (s : State) (o : PortId) (sp : SupPort) (c : Instr) (v : Service) (after : TxState),
    let x := s.port o
    x.tx.state = .sending → x.tx.service = some v → v.started = true → x.rx.locked = true → x.rx.link = .up →
    x.admin ≠ .disabled → s.master.holder = some sp →
    (c = .portAdminDisable sp [portByte o, 2#8] ∧ after = .idle ∨ (∃ cut, c = .lockLost o cut) ∧ after = .down) →
      (∃ t, execTogether (.departure o) c s = .next t ∧
        (t.port o).arbiter =
          { x.arbiter with level := min (x.arbiter.level + x.arbiter.rate) (256 * x.arbiter.burst) } ∧
        (t.port o).counters.get Counter.departed.index = min (x.counters.get Counter.departed.index + 1) 4294967295 ∧
        (t.port o).available = false ∧ (t.port o).tx.state = after ∧ (t.port o).tx.service = none) ∧
      ∃ t, execTogether c (.departure o) s = .next t ∧
        (t.port o).arbiter = x.arbiter ∧
        (t.port o).counters.get Counter.departed.index = x.counters.get Counter.departed.index ∧
        (t.port o).counters.get Counter.flushed.index =
          min (x.counters.get Counter.flushed.index + s.owed o) 4294967295 ∧
        (t.port o).available = false ∧ (t.port o).tx.state = after ∧ (t.port o).tx.service = none) ∧
  ∀ (s : State) (sp other : SupPort), other ≠ sp →
    let m := s.master
    let b := Instr.keepalive sp [1#8]
    let claim := Instr.claim other []
    let expiry := Instr.mastershipTimerExpiry
    let held (q : SupPort) : Mastership :=
      { holder := some q, health := .healthy, pointer := .expectA, armed := false, timer := some m.period
        period := m.period }
    let gone : Mastership :=
      { holder := none, health := .healthy, pointer := .expectA, armed := false, timer := none, period := m.period }
    let restarts : Prop := m.pointer = .expectB ∧ m.armed = true
    let answered (t : State) : State := t.respond sp 0x12#8 .ok (.keepalive true .expectA)
    let claims (t : State) : State :=
      (notify { t with master := held other } [.change]).respond other 0x10#8 .ok (.claim true)
    (m.holder = some sp →
      (restarts → m.timer ≠ none →
        execTogether b expiry s = .next (answered { s with master := held sp }) ∧
        (m.health = .healthy →
          execTogether expiry b s = .next (answered { notify s [.alert] with master := held sp })) ∧
        (m.health = .alerted →
          execTogether expiry b s =
            .next ((notify { s with master := gone } [.change]).respond sp 0x12#8 .notMaster .empty))) ∧
      (restarts → m.health = .alerted →
        execTogether b claim s =
          .next ((answered { s with master := held sp }).respond other 0x10#8 .alreadyHeld .empty) ∧
        execTogether claim b s = .next ((claims s).respond sp 0x12#8 .notMaster .empty)) ∧
      (execTogether (.relinquish sp []) claim s =
        .next (claims ((notify { s with master := gone } [.change]).respond sp 0x11#8 .ok .empty))) ∧
      (m.health = .healthy →
        execTogether claim (.relinquish sp []) s =
          .next ((notify { s.respond other 0x10#8 .alreadyHeld .empty with master := gone } [.change]).respond
            sp 0x11#8 .ok .empty)) ∧
      (m.health = .alerted →
        execTogether claim (.relinquish sp []) s = .next ((claims s).respond sp 0x11#8 .notMaster .empty)) ∧
      (m.health = .alerted → m.timer ≠ none →
        execTogether claim expiry s = .next (claims s) ∧
        execTogether expiry claim s = .next (claims (notify { s with master := gone } [.change]))) ∧
      (restarts → ∀ code period, (code, period) ∈ [(0#8, Period.ms50), (1#8, .ms200), (2#8, .s1), (3#8, .s4)] →
        execTogether (.timerPeriod sp [code]) b s =
          .next (answered { s.respond sp 0x60#8 .ok (.timerPeriod period m.timer) with
            master := { held sp with timer := some period, period := period } }) ∧
        execTogether b (.timerPeriod sp [code]) s =
          .next (({ answered { s with master := held sp } with
            master := { held sp with period := period } } : State).respond sp 0x60#8 .ok
              (.timerPeriod period (some m.period))))) ∧
    (m.holder = none →
      execTogether (.claim sp []) claim s =
        .next (((notify { s with master := held sp } [.change]).respond sp 0x10#8 .ok (.claim true)).respond
          other 0x10#8 .alreadyHeld .empty))

end
end

