-- ==== Sys2Proof/Laws/Framing.lean ====
section
/-! SUPPORT. The check byte and the command records: what a record made by the encoder gives back. -/

namespace Sys2Proof.Machine

open Sys2Proof

@[simp] theorem byteSum_nil : byteSum [] = 0 := rfl

@[simp] theorem byteSum_cons (b : Byte) (bs : List Byte) : byteSum (b :: bs) = b.toNat + byteSum bs := by
  simp [byteSum]

@[simp] theorem byteSum_append (a b : List Byte) : byteSum (a ++ b) = byteSum a + byteSum b := by
  simp [byteSum]

/-- R2: the bytes closed by their check byte sum to 255 modulo 256. -/
@[simp] theorem checkPasses_withCheck (bs : List Byte) : checkPasses (withCheck bs) = true := by
  have h : (checkByte bs).toNat = 255 - byteSum bs % 256 := by
    simp only [checkByte, BitVec.toNat_ofNat]
    omega
  simp only [checkPasses, withCheck, byteSum_append, byteSum_cons, byteSum_nil, h, beq_iff_eq]
  omega

@[simp] theorem withCheck_length (bs : List Byte) : (withCheck bs).length = bs.length + 1 := by simp [withCheck]

/-- A record has three bytes beside its arguments (R169). -/
@[simp] theorem recordOf_length (code : Byte) (args : List Byte) : (recordOf code args).length = args.length + 3 := by
  simp [recordOf]

/-- A record whose arguments fit its length byte is complete (R167, R169). -/
theorem recordOf_complete (code : Byte) {args : List Byte} (h : args.length ≤ 255) :
    recordComplete (recordOf code args) = true := by
  have hn : (BitVec.ofNat 8 args.length).toNat = args.length := by
    simp only [BitVec.toNat_ofNat]
    omega
  have : recordOf code args = code :: BitVec.ofNat 8 args.length :: (args ++ [checkByte (code :: BitVec.ofNat 8 args.length :: args)]) :=
    rfl
  simp only [this, recordComplete, List.length_cons, List.length_append, List.length_nil, hn, beq_iff_eq]

/-- A complete record is the command record at the head of any bytes that begin with it (R167). -/
theorem firstRecord_append {record : List Byte} (h : recordComplete record = true) (after : List Byte) :
    firstRecord (record ++ after) = some record := by
  unfold recordComplete at h
  split at h
  · rename_i c n rest
    simp only [beq_iff_eq] at h
    simp only [List.cons_append, firstRecord, List.length_cons, List.length_append] at h ⊢
    rw [if_pos (by omega), show n.toNat + 3 = (c :: n :: rest).length by simp; omega,
      show c :: n :: (rest ++ after) = (c :: n :: rest) ++ after from rfl, List.take_left]
  · cases h

/-- Until the last byte of a record has been shifted in there is no command record (R167). -/
theorem firstRecord_take {record : List Byte} (h : recordComplete record = true) {k : Nat} (hk : k < record.length) :
    firstRecord (record.take k) = none := by
  unfold recordComplete at h
  split at h
  · rename_i c n rest
    simp only [beq_iff_eq] at h
    match k with
    | 0 => rfl
    | 1 => rfl
    | k + 2 =>
      simp only [List.length_cons] at h hk
      simp only [List.take_succ_cons, firstRecord, List.length_cons, List.length_take]
      rw [if_neg (by omega)]
  · cases h

/-- A record's first byte is its code (R169). -/
@[simp] theorem byteAt_recordOf (code : Byte) (args : List Byte) : byteAt (recordOf code args) 0 = code := rfl

/-- A record gives back its arguments (R169). -/
@[simp] theorem recordArgs_recordOf (code : Byte) (args : List Byte) : recordArgs (recordOf code args) = args := by
  simp [recordArgs, recordOf, withCheck]

/-- A record's check passes (R169). -/
@[simp] theorem checkPasses_recordOf (code : Byte) (args : List Byte) : checkPasses (recordOf code args) = true :=
  checkPasses_withCheck _

/-- A complete record has at least its code, its length and its check byte, and at most 258 bytes (R169). -/
theorem length_of_recordComplete {record : List Byte} (h : recordComplete record = true) :
    3 ≤ record.length ∧ record.length ≤ 258 := by
  unfold recordComplete at h
  split at h
  · rename_i n rest
    have := n.isLt
    simp only [beq_iff_eq] at h
    omega
  · cases h

/-- The action byte that a PORT_ADMIN row names stands in an argument list of two bytes (R173). -/
theorem length_of_namesAction {action : Byte} {args : List Byte} (h : namesAction action args = true) : args.length = 2 := by
  unfold namesAction at h
  split at h
  · rfl
  · cases h

theorem argsFit_length {args : List Byte} (h : argsFit args = true) : args.length ≤ 255 := by
  simpa [argsFit] using h

/-! ### The bits of a management port (R167) -/

/-- A byte is the byte of its bits, shifted the most significant first (R167). -/
theorem byteOfBits_shifted (b : Byte) :
    byteOfBits (b.getLsbD 7) (b.getLsbD 6) (b.getLsbD 5) (b.getLsbD 4) (b.getLsbD 3) (b.getLsbD 2) (b.getLsbD 1)
      (b.getLsbD 0) = b := by
  revert b
  decide +kernel

/-- The bits of whole bytes shift those bytes in, ahead of what the bits after them do (R167). -/
theorem shiftedBytes_append (bytes : List Byte) (bits : List Bool) :
    shiftedBytes (bytes.flatMap shiftedBits ++ bits) = bytes ++ shiftedBytes bits := by
  induction bytes with
  | nil => rfl
  | cons b bytes ih =>
    simp only [List.flatMap_cons, shiftedBits, List.cons_append, List.nil_append, shiftedBytes, byteOfBits_shifted, ← ih]

/-- Fewer than eight bits shift no byte in (R167). -/
theorem shiftedBytes_of_short {bits : List Bool} (h : bits.length < 8) : shiftedBytes bits = [] := by
  unfold shiftedBytes
  split
  · simp only [List.length_cons] at h
    omega
  · rfl

/-- A clock that falls, rises with data-in at `b` and stays high while data-in changes has one bit sampled, `b` (R167). -/
theorem sampledBits_clocked (bits : List Bool) :
    sampledBits (bits.flatMap fun b =>
      [{ clock := false, data := !b }, { clock := true, data := b }, { clock := true, data := !b }]) = bits := by
  induction bits with
  | nil => rfl
  | cons b bits ih => cases bits <;> simp_all [sampledBits]

end Sys2Proof.Machine
end

