-- ==== Sys2Proof/Laws/Table.lean ====
section
/-! SUPPORT. The small lemmas of tables, output sets and key numbers. -/

namespace Sys2Proof

namespace Table

variable {α β : Type} {n : Nat}

@[simp] theorem get_put_self (t : Table α n) (i : Fin n) (x : α) : (t.put i x).get i = x := by
  simp [get, put]

@[simp] theorem get_put_ne (t : Table α n) {i j : Fin n} (x : α) (h : j ≠ i) : (t.put i x).get j = t.get j := by
  have h' : i.val ≠ j.val := fun e => h (Fin.ext e.symm)
  simp [get, put, Vector.getElem_set_ne, h']

theorem get_put (t : Table α n) (i j : Fin n) (x : α) : (t.put i x).get j = if j = i then x else t.get j := by
  by_cases h : j = i
  · subst h; simp
  · simp [h]

@[simp] theorem get_ofFn (f : Fin n → α) (i : Fin n) : (ofFn f).get i = f i := by
  simp [get, ofFn]

@[simp] theorem get_fill (x : α) (i : Fin n) : (fill x : Table α n).get i = x := by simp [fill]

@[simp] theorem get_map (f : α → β) (t : Table α n) (i : Fin n) : (t.map f).get i = f (t.get i) := by simp [map]

/-- Two tables are equal when they agree at every index. -/
theorem ext_get {t u : Table α n} (h : ∀ i, t.get i = u.get i) : t = u := by
  apply Vector.ext
  intro i hi
  have := h ⟨i, hi⟩
  exact this

@[simp] theorem put_get_self (t : Table α n) (i : Fin n) : t.put i (t.get i) = t := by
  apply ext_get
  intro j
  by_cases h : j = i
  · subst h; simp
  · simp [h]

@[simp] theorem put_put (t : Table α n) (i : Fin n) (x y : α) : (t.put i x).put i y = t.put i y := by
  apply ext_get
  intro j
  by_cases h : j = i
  · subst h; simp
  · simp [h]

end Table

theorem mem_allPorts (p : PortId) : p ∈ allPorts := by revert p; decide

theorem nodup_allPorts : allPorts.Nodup := by decide

namespace OutSet

@[simp] theorem has_empty (o : PortId) : has empty o = false := by simp [has, empty]

@[simp] theorem has_single (o q : PortId) : has (single o) q = decide (q = o) := by
  revert o q; decide

@[simp] theorem has_add (x : OutSet) (o q : PortId) : has (add x o) q = (decide (q = o) || has x q) := by
  have h : has (add x o) q = (has x q || has (single o) q) := by simp only [has, add]; exact BitVec.getLsbD_or
  rw [h, has_single, Bool.or_comm]

@[simp] theorem has_drop (x : OutSet) (o q : PortId) : has (drop x o) q = (!decide (q = o) && has x q) := by
  have h : has (drop x o) q = (has x q && !has (single o) q) := by
    simp only [has, drop, BitVec.getLsbD_and, BitVec.getLsbD_not]
    simp [q.isLt]
  rw [h, has_single, Bool.and_comm]

@[simp] theorem has_inter (x y : OutSet) (q : PortId) : has (inter x y) q = (has x q && has y q) := by
  simp [has, inter]

/-- Two sets are equal when they hold the same outputs. -/
theorem ext_has {x y : OutSet} (h : ∀ o, has x o = has y o) : x = y := by
  apply BitVec.eq_of_getLsbD_eq
  intro i hi
  exact h ⟨i, hi⟩

/-- A set is empty when it holds no output. -/
theorem eq_empty_iff (x : OutSet) : x = empty ↔ ∀ o, has x o = false := by
  constructor
  · rintro rfl o; simp
  · intro h; apply ext_has; intro o; simp [h o]

theorem has_foldl_add (f : PortId → Bool) (l : List PortId) (x : OutSet) (q : PortId) :
    has (l.foldl (fun x o => if f o then add x o else x) x) q = (has x q || (decide (q ∈ l) && f q)) := by
  induction l generalizing x with
  | nil => simp
  | cons o l ih =>
    rw [List.foldl_cons, ih]
    by_cases hq : q = o
    · subst hq; by_cases hf : f q <;> simp [hf]
    · by_cases hf : f o <;> simp [hf, hq]

@[simp] theorem has_ofPred (f : PortId → Bool) (q : PortId) : has (ofPred f) q = f q := by
  simp [ofPred, has_foldl_add, mem_allPorts]

@[simp] theorem mem_toList (x : OutSet) (o : PortId) : o ∈ x.toList ↔ has x o = true := by
  simp [toList, mem_allPorts]

theorem nodup_toList (x : OutSet) : x.toList.Nodup := nodup_allPorts.filter _

end OutSet

namespace Machine

/-- Two crosspoint queues of one input have the same number only for the same output and class (R6). -/
theorem queueNo_inj {o o' : PortId} {c c' : Class} (h : queueNo o c = queueNo o' c') : o = o' ∧ c = c' := by
  have h' : 2 * o.val + c.code = 2 * o'.val + c'.code := congrArg Fin.val h
  cases c <;> cases c' <;> simp only [Class.code] at h' <;> refine ⟨Fin.ext ?_, ?_⟩ <;> first | omega | rfl

theorem queueNo_ne {o o' : PortId} {c c' : Class} (h : ¬(o = o' ∧ c = c')) : queueNo o c ≠ queueNo o' c' :=
  fun e => h (queueNo_inj e)

/-- Every queue number is that of an output and a class. -/
theorem queueNo_surj (k : Fin 48) : ∃ o c, queueNo o c = k := by
  refine ⟨⟨k.val / 2, by omega⟩, if k.val % 2 = 0 then .bulk else .express, Fin.ext ?_⟩
  by_cases h : k.val % 2 = 0 <;> simp [h, queueNo, Class.code] <;> omega

theorem unicastKey_ne_keyM (o : PortId) (c : Class) : unicastKey o c ≠ keyM := by
  intro h
  have : (queueNo o c).val = 48 := congrArg Fin.val h
  have := (queueNo o c).isLt
  omega

theorem unicastKey_inj {o o' : PortId} {c c' : Class} (h : unicastKey o c = unicastKey o' c') : o = o' ∧ c = c' :=
  queueNo_inj (Fin.castSucc_injective _ h)

/-- The capacity of a unicast key is 2 for EXPRESS and 6 for BULK (R49). -/
theorem capacity_unicast (o : PortId) (c : Class) :
    capacity (unicastKey o c) = match c with | .express => 2 | .bulk => 6 := by
  have := o.isLt
  cases c <;> simp [capacity, unicastKey, queueNo, Class.code] <;> omega

@[simp] theorem capacity_keyM : capacity keyM = 32 := rfl

theorem mem_allKeys (k : Key) : k ∈ allKeys := by simp [allKeys]

theorem nodup_allKeys : allKeys.Nodup := List.nodup_finRange 49

end Machine

end Sys2Proof
end

