-- ==== Sys2Proof/Laws/State.lean ====
section
/-! SUPPORT. Beside the state: one lemma for each field of each update, so that no later proof unfolds a record update. -/

namespace Sys2Proof.Machine

open Sys2Proof Sys2Proof.Safety

/-! ### An event at its start -/

@[simp] theorem Event.start_toState (s : State) : (Event.start s).toState = s := rfl
@[simp] theorem Event.start_ports (s : State) : (Event.start s).ports = s.ports := rfl
@[simp] theorem Event.start_groups (s : State) : (Event.start s).groups = s.groups := rfl
@[simp] theorem Event.start_meters (s : State) : (Event.start s).meters = s.meters := rfl
@[simp] theorem Event.start_master (s : State) : (Event.start s).master = s.master := rfl
@[simp] theorem Event.start_units (s : State) : (Event.start s).units = s.units := rfl
@[simp] theorem Event.start_spi (s : State) : (Event.start s).spi = s.spi := rfl
@[simp] theorem Event.start_pending (s : State) : (Event.start s).pending = s.pending := rfl
@[simp] theorem Event.start_raised (s : State) : (Event.start s).raised = [] := rfl
@[simp] theorem Event.start_freed (s : State) : (Event.start s).freed = [] := rfl

/-! ### A port changed -/

@[simp] theorem Event.modPort_groups (c : Event) (p : PortId) (f : Port → Port) : (c.modPort p f).groups = c.groups := rfl
@[simp] theorem Event.modPort_meters (c : Event) (p : PortId) (f : Port → Port) : (c.modPort p f).meters = c.meters := rfl
@[simp] theorem Event.modPort_master (c : Event) (p : PortId) (f : Port → Port) : (c.modPort p f).master = c.master := rfl
@[simp] theorem Event.modPort_units (c : Event) (p : PortId) (f : Port → Port) : (c.modPort p f).units = c.units := rfl
@[simp] theorem Event.modPort_spi (c : Event) (p : PortId) (f : Port → Port) : (c.modPort p f).spi = c.spi := rfl
@[simp] theorem Event.modPort_pending (c : Event) (p : PortId) (f : Port → Port) :
    (c.modPort p f).pending = c.pending := rfl
@[simp] theorem Event.modPort_raised (c : Event) (p : PortId) (f : Port → Port) : (c.modPort p f).raised = c.raised := rfl
@[simp] theorem Event.modPort_freed (c : Event) (p : PortId) (f : Port → Port) : (c.modPort p f).freed = c.freed := rfl

@[simp] theorem Event.modPort_port_self (c : Event) (p : PortId) (f : Port → Port) :
    (c.modPort p f).port p = f (c.port p) := Table.get_put_self _ _ _

theorem Event.modPort_port_ne (c : Event) {p q : PortId} (f : Port → Port) (h : q ≠ p) :
    (c.modPort p f).port q = c.port q := Table.get_put_ne _ _ h

theorem Event.modPort_port (c : Event) (p q : PortId) (f : Port → Port) :
    (c.modPort p f).port q = if q = p then f (c.port q) else c.port q := by
  by_cases h : q = p
  · subst h; simp
  · simp [h, Event.modPort_port_ne]

/-- Two changes of one port are one. -/
@[simp] theorem Event.modPort_modPort (c : Event) (p : PortId) (f g : Port → Port) :
    (c.modPort p f).modPort p g = c.modPort p fun x => g (f x) := by
  simp [Event.modPort]

/-! ### Notices raised -/

@[simp] theorem Event.raise_ports (c : Event) (n : Notice) : (c.raise n).ports = c.ports := rfl
@[simp] theorem Event.raise_port (c : Event) (n : Notice) (q : PortId) : (c.raise n).port q = c.port q := rfl
@[simp] theorem Event.raise_groups (c : Event) (n : Notice) : (c.raise n).groups = c.groups := rfl
@[simp] theorem Event.raise_meters (c : Event) (n : Notice) : (c.raise n).meters = c.meters := rfl
@[simp] theorem Event.raise_master (c : Event) (n : Notice) : (c.raise n).master = c.master := rfl
@[simp] theorem Event.raise_units (c : Event) (n : Notice) : (c.raise n).units = c.units := rfl
@[simp] theorem Event.raise_spi (c : Event) (n : Notice) : (c.raise n).spi = c.spi := rfl
@[simp] theorem Event.raise_pending (c : Event) (n : Notice) : (c.raise n).pending = c.pending := rfl
@[simp] theorem Event.raise_toState (c : Event) (n : Notice) : (c.raise n).toState = c.toState := rfl
@[simp] theorem Event.raise_raised (c : Event) (n : Notice) : (c.raise n).raised = c.raised ++ [n] := rfl
@[simp] theorem Event.raise_freed (c : Event) (n : Notice) : (c.raise n).freed = c.freed := rfl

@[simp] theorem Event.raiseIf_toState (c : Event) (b : Bool) (n : Notice) : (c.raiseIf b n).toState = c.toState := by
  cases b <;> rfl
@[simp] theorem Event.raiseIf_port (c : Event) (b : Bool) (n : Notice) (q : PortId) :
    (c.raiseIf b n).port q = c.port q := by cases b <;> rfl
@[simp] theorem Event.raiseIf_raised (c : Event) (b : Bool) (n : Notice) :
    (c.raiseIf b n).raised = if b then c.raised ++ [n] else c.raised := by cases b <;> rfl
@[simp] theorem Event.raiseIf_freed (c : Event) (b : Bool) (n : Notice) : (c.raiseIf b n).freed = c.freed := by
  cases b <;> rfl

/-! ### The shared blocks replaced -/

@[simp] theorem Event.setMaster_port (c : Event) (m : Mastership) (q : PortId) : (c.setMaster m).port q = c.port q := rfl
@[simp] theorem Event.setMaster_master (c : Event) (m : Mastership) : (c.setMaster m).master = m := rfl
@[simp] theorem Event.setMaster_toState (c : Event) (m : Mastership) :
    (c.setMaster m).toState = { c.toState with master := m } := rfl
@[simp] theorem Event.setMaster_raised (c : Event) (m : Mastership) : (c.setMaster m).raised = c.raised := rfl
@[simp] theorem Event.setMaster_freed (c : Event) (m : Mastership) : (c.setMaster m).freed = c.freed := rfl
@[simp] theorem Event.setUnit_toState (c : Event) (sp : SupPort) (u : NoticeUnit) :
    (c.setUnit sp u).toState = { c.toState with units := c.units.put sp u } := rfl
@[simp] theorem Event.setUnit_raised (c : Event) (sp : SupPort) (u : NoticeUnit) : (c.setUnit sp u).raised = c.raised := rfl
@[simp] theorem Event.setUnit_freed (c : Event) (sp : SupPort) (u : NoticeUnit) : (c.setUnit sp u).freed = c.freed := rfl
@[simp] theorem Event.setGroup_toState (c : Event) (k : Fin 256) (g : GroupSet) :
    (c.setGroup k g).toState = { c.toState with groups := c.groups.put k g } := rfl
@[simp] theorem Event.setGroup_raised (c : Event) (k : Fin 256) (g : GroupSet) : (c.setGroup k g).raised = c.raised := rfl
@[simp] theorem Event.setGroup_freed (c : Event) (k : Fin 256) (g : GroupSet) : (c.setGroup k g).freed = c.freed := rfl
@[simp] theorem Event.setMeter_toState (c : Event) (k : Fin 8) (m : Meter) :
    (c.setMeter k m).toState = { c.toState with meters := c.meters.put k m } := rfl
@[simp] theorem Event.setMeter_raised (c : Event) (k : Fin 8) (m : Meter) : (c.setMeter k m).raised = c.raised := rfl
@[simp] theorem Event.setMeter_freed (c : Event) (k : Fin 8) (m : Meter) : (c.setMeter k m).freed = c.freed := rfl

/-! ### The two things of the supervisor ports -/

@[simp] theorem PerSup.get_put_self {α : Type} (x : PerSup α) (sp : SupPort) (a : α) : (x.put sp a).get sp = a := by
  cases sp <;> rfl
theorem PerSup.get_put_ne {α : Type} (x : PerSup α) {sp sq : SupPort} (a : α) (h : sq ≠ sp) :
    (x.put sp a).get sq = x.get sq := by cases sp <;> cases sq <;> first | rfl | exact absurd rfl h
@[simp] theorem PerSup.put_get_self {α : Type} (x : PerSup α) (sp : SupPort) : x.put sp (x.get sp) = x := by
  cases sp <;> rfl
@[simp] theorem PerSup.put_put {α : Type} (x : PerSup α) (sp : SupPort) (a b : α) : (x.put sp a).put sp b = x.put sp b := by
  cases sp <;> rfl

/-! ### A response -/

@[simp] theorem State.respond_ports (s : State) (sp : SupPort) (code : Byte) (st : Status) (d : RespData) :
    (s.respond sp code st d).ports = s.ports := rfl
@[simp] theorem State.respond_port (s : State) (sp : SupPort) (code : Byte) (st : Status) (d : RespData) (p : PortId) :
    (s.respond sp code st d).port p = s.port p := rfl
@[simp] theorem State.respond_groups (s : State) (sp : SupPort) (code : Byte) (st : Status) (d : RespData) :
    (s.respond sp code st d).groups = s.groups := rfl
@[simp] theorem State.respond_meters (s : State) (sp : SupPort) (code : Byte) (st : Status) (d : RespData) :
    (s.respond sp code st d).meters = s.meters := rfl
@[simp] theorem State.respond_master (s : State) (sp : SupPort) (code : Byte) (st : Status) (d : RespData) :
    (s.respond sp code st d).master = s.master := rfl
@[simp] theorem State.respond_units (s : State) (sp : SupPort) (code : Byte) (st : Status) (d : RespData) :
    (s.respond sp code st d).units = s.units := rfl
@[simp] theorem State.respond_pending (s : State) (sp : SupPort) (code : Byte) (st : Status) (d : RespData) :
    (s.respond sp code st d).pending = s.pending := rfl

/-! ### The unit on a link -/

/-- What the end of a unit does, whole (R1, R127, R128). -/
theorem Transmitter.endUnit_eq (t : Transmitter) (how : UnitEnd) :
    t.endUnit how =
      if t.onLink = none then t
      else { t with
        onLink := none, closed := some how, spacing := if t.onLink = some .marker then 0 else t.spacing + 1
        wordOwed := t.wordOwed || t.onLink.any isCell } := by
  unfold Transmitter.endUnit
  split <;> simp_all [isCell]
  split <;> simp_all

/-- What closing a cell with an abort mark does, whole (R126, R132, R137). -/
theorem Transmitter.abortCell_eq (t : Transmitter) :
    t.abortCell = if t.onLink.any isCell then aborted t else t := by
  rcases h : t.onLink with _ | u
  · simp [Transmitter.abortCell, h]
  · cases u <;> simp [Transmitter.abortCell, Transmitter.endUnit, isCell, aborted, h]

/-- What a link that leaves UP does to the unit on it, whole (R123): a cell ends by an abort mark, a word short. -/
theorem Transmitter.cutOff_eq (t : Transmitter) :
    t.cutOff = if t.onLink.any isCell then aborted t else t.endUnit .short := by
  rcases h : t.onLink with _ | u
  · simp [Transmitter.cutOff, h]
  · cases u <;> simp [Transmitter.cutOff, Transmitter.endUnit, isCell, aborted, h]

@[simp] theorem Transmitter.endUnit_onLink (t : Transmitter) (how : UnitEnd) : (t.endUnit how).onLink = none := by
  rw [Transmitter.endUnit_eq]; split <;> simp_all
@[simp] theorem Transmitter.endUnit_state (t : Transmitter) (how : UnitEnd) : (t.endUnit how).state = t.state := by
  rw [Transmitter.endUnit_eq]; split <;> rfl
@[simp] theorem Transmitter.endUnit_service (t : Transmitter) (how : UnitEnd) : (t.endUnit how).service = t.service := by
  rw [Transmitter.endUnit_eq]; split <;> rfl
@[simp] theorem Transmitter.endUnit_timer (t : Transmitter) (how : UnitEnd) : (t.endUnit how).timer = t.timer := by
  rw [Transmitter.endUnit_eq]; split <;> rfl
@[simp] theorem Transmitter.endUnit_limit (t : Transmitter) (how : UnitEnd) : (t.endUnit how).limit = t.limit := by
  rw [Transmitter.endUnit_eq]; split <;> rfl
@[simp] theorem Transmitter.endUnit_congestionUpdate (t : Transmitter) (how : UnitEnd) :
    (t.endUnit how).congestionUpdate = t.congestionUpdate := by
  rw [Transmitter.endUnit_eq]; split <;> rfl
@[simp] theorem Transmitter.endUnit_resyncWord (t : Transmitter) (how : UnitEnd) :
    (t.endUnit how).resyncWord = t.resyncWord := by
  rw [Transmitter.endUnit_eq]; split <;> rfl

/-! ### A port replaced, and notices taken, in the statements' vocabulary -/

@[simp] theorem withPort_port_self (s : State) (p : PortId) (x : Port) : (withPort s p x).port p = x :=
  Table.get_put_self _ _ _
theorem withPort_port_ne (s : State) {p q : PortId} (x : Port) (h : q ≠ p) : (withPort s p x).port q = s.port q :=
  Table.get_put_ne _ _ h
@[simp] theorem withPort_withPort (s : State) (p : PortId) (x y : Port) :
    withPort (withPort s p x) p y = withPort s p y := by simp [withPort]
@[simp] theorem withPort_self (s : State) (p : PortId) : withPort s p (s.port p) = s := by simp [withPort, State.port]
@[simp] theorem withPort_groups (s : State) (p : PortId) (x : Port) : (withPort s p x).groups = s.groups := rfl
@[simp] theorem withPort_meters (s : State) (p : PortId) (x : Port) : (withPort s p x).meters = s.meters := rfl
@[simp] theorem withPort_master (s : State) (p : PortId) (x : Port) : (withPort s p x).master = s.master := rfl
@[simp] theorem withPort_units (s : State) (p : PortId) (x : Port) : (withPort s p x).units = s.units := rfl
@[simp] theorem withPort_spi (s : State) (p : PortId) (x : Port) : (withPort s p x).spi = s.spi := rfl
@[simp] theorem withPort_pending (s : State) (p : PortId) (x : Port) : (withPort s p x).pending = s.pending := rfl

@[simp] theorem notify_nil (s : State) : notify s [] = s := rfl
@[simp] theorem notify_ports (s : State) (l : List Notice) : (notify s l).ports = s.ports := rfl
@[simp] theorem notify_port (s : State) (l : List Notice) (p : PortId) : (notify s l).port p = s.port p := rfl
@[simp] theorem notify_groups (s : State) (l : List Notice) : (notify s l).groups = s.groups := rfl
@[simp] theorem notify_meters (s : State) (l : List Notice) : (notify s l).meters = s.meters := rfl
@[simp] theorem notify_master (s : State) (l : List Notice) : (notify s l).master = s.master := rfl
@[simp] theorem notify_spi (s : State) (l : List Notice) : (notify s l).spi = s.spi := rfl
@[simp] theorem notify_pending (s : State) (l : List Notice) : (notify s l).pending = s.pending := rfl

/-- A change of one port in an event is that port replaced. -/
theorem Event.modPort_toState (c : Event) (p : PortId) (f : Port → Port) :
    (c.modPort p f).toState = withPort c.toState p (f (c.port p)) := rfl

/-- Two states are equal when their ports agree one by one and the rest is equal. -/
theorem State.ext_port {s t : State} (hp : ∀ p, s.port p = t.port p) (hg : s.groups = t.groups) (hm : s.meters = t.meters)
    (ha : s.master = t.master) (hu : s.units = t.units) (hs : s.spi = t.spi) (hq : s.pending = t.pending) : s = t := by
  have h : s.ports = t.ports := Table.ext_get hp
  cases s; cases t; simp_all

end Sys2Proof.Machine
end

