-- ==== Sys2Proof/Laws/Ops.lean ====
section
/-! SUPPORT. For each shared operation, what it can do, said once; the proofs cite these and unfold nothing. -/

namespace Sys2Proof.Machine

open Sys2Proof Sys2Proof.Safety

/-! ### Closing an event -/

theorem sortNotices_nil : sortNotices [] = [] := rfl
theorem sortNotices_single (n : Notice) : sortNotices [n] = [n] := rfl

/-- Two notices already in the order of R186 stay as they are. -/
theorem sortNotices_pair {a b : Notice} (h : noticeBefore a b = true) : sortNotices [a, b] = [a, b] := by
  simp [sortNotices, insertNotice, h]

/-- Two notices in the other order change places. -/
theorem sortNotices_pair_swap {a b : Notice} (h : noticeBefore a b = false) : sortNotices [a, b] = [b, a] := by
  simp [sortNotices, insertNotice, h]

theorem Event.latchAll_eq (c : Event) : c.latchAll = notify c.toState (sortNotices c.raised) := rfl

/-- An event in which nothing was freed ends by its notices alone. -/
theorem Event.finish_of_freed_nil (c : Event) (h : c.freed = []) :
    c.finish = notify c.toState (sortNotices c.raised) := by
  simp [Event.finish, Event.joinFreed, h, sortFreed, Event.latchAll_eq]

/-- An event that raised and freed nothing ends as the state it has reached. -/
theorem Event.finish_of_quiet (c : Event) (hr : c.raised = []) (hf : c.freed = []) : c.finish = c.toState := by
  rw [Event.finish_of_freed_nil c hf, hr, sortNotices_nil, notify_nil]

/-- An event that freed one place joins its key to the return list of its port. -/
theorem Event.finish_of_freed_one (c : Event) {i : PortId} {k : Key} (h : c.freed = [(i, k)]) :
    c.finish = notify (withPort c.toState i { c.port i with
      account := { (c.port i).account with returnList := joinKey (c.port i).account.returnList k } })
      (sortNotices c.raised) := by
  simp only [Event.finish, Event.joinFreed, h, sortFreed, List.foldr, insertFreed, List.foldl, Event.latchAll_eq,
    Event.modPort_toState, Event.modPort_raised]

/-! ### Operations that leave the shared blocks, the management ports and the queue of commands alone -/

/-- Everything but the ports and the notices is the same after as before. -/
def Event.SharedSame (c d : Event) : Prop :=
  d.groups = c.groups ∧ d.meters = c.meters ∧ d.master = c.master ∧ d.units = c.units ∧ d.spi = c.spi ∧
    d.pending = c.pending

theorem Event.SharedSame.refl (c : Event) : c.SharedSame c := ⟨rfl, rfl, rfl, rfl, rfl, rfl⟩

theorem Event.SharedSame.trans {c d e : Event} (h : c.SharedSame d) (h' : d.SharedSame e) : c.SharedSame e := by
  obtain ⟨a, b, x, y, z, w⟩ := h
  obtain ⟨a', b', x', y', z', w'⟩ := h'
  exact ⟨a'.trans a, b'.trans b, x'.trans x, y'.trans y, z'.trans z, w'.trans w⟩

theorem Event.modPort_shared (c : Event) (p : PortId) (f : Port → Port) : c.SharedSame (c.modPort p f) :=
  ⟨rfl, rfl, rfl, rfl, rfl, rfl⟩

theorem Event.raise_shared (c : Event) (n : Notice) : c.SharedSame (c.raise n) := ⟨rfl, rfl, rfl, rfl, rfl, rfl⟩

theorem Event.raiseIf_shared (c : Event) (b : Bool) (n : Notice) : c.SharedSame (c.raiseIf b n) := by
  cases b <;> exact ⟨rfl, rfl, rfl, rfl, rfl, rfl⟩

theorem Event.count_shared (c : Event) (p : PortId) (k : Counter) : c.SharedSame (c.count p k) := c.modPort_shared p _

theorem Event.free_shared (c : Event) (i : PortId) (k : Key) (n : Nat) : c.SharedSame (c.free i k n) := by
  unfold Event.free
  split
  · exact ⟨rfl, rfl, rfl, rfl, rfl, rfl⟩
  · exact .refl c

theorem Event.evaluate_shared (c : Event) (o : PortId) : c.SharedSame (c.evaluate o) := by
  unfold Event.evaluate
  dsimp only
  split
  · exact .refl c
  · exact ⟨rfl, rfl, rfl, rfl, rfl, rfl⟩

theorem Event.setWaiting_shared (c : Event) (o : PortId) (n : Nat) : c.SharedSame (c.setWaiting o n) :=
  (c.modPort_shared o _).trans (Event.evaluate_shared _ o)

/-- A fold of operations that each leave the rest alone leaves it alone. -/
theorem Event.foldl_shared {α : Type} (f : Event → α → Event)
    (hf : ∀ (c : Event) (a : α), c.SharedSame (f c a)) (l : List α) (c : Event) :
    c.SharedSame (l.foldl f c) := by
  induction l generalizing c with
  | nil => exact .refl c
  | cons a l ih => exact (hf c a).trans (ih _)

theorem Event.freeLost_shared (o : PortId) (c : Event) (i : PortId) (p : Port) : c.SharedSame (c.freeLost o i p) :=
  ((c.free_shared i _ _).trans (Event.free_shared _ i _ _)).trans (Event.free_shared _ i _ _)

theorem Event.closeOutput_shared (c : Event) (o : PortId) : c.SharedSame (c.closeOutput o) := by
  have h1 : c.SharedSame { c with ports := c.ports.map (Port.loseOutput o) } := ⟨rfl, rfl, rfl, rfl, rfl, rfl⟩
  have h2 := Event.foldl_shared (fun e i => e.freeLost o i (c.port i)) (fun e i => Event.freeLost_shared o e i _) allPorts
    { c with ports := c.ports.map (Port.loseOutput o) }
  exact ((h1.trans h2).trans (Event.modPort_shared _ _ _)).trans (Event.setWaiting_shared _ _ _)

theorem Event.endDrain_shared (c : Event) (i : PortId) : c.SharedSame (c.endDrain i) :=
  (c.modPort_shared i _).trans (Event.raise_shared _ _)

theorem Event.drainChecks_shared (n : Nat) (l : List PortId) (c : Event) : c.SharedSame (c.drainChecks n l) := by
  induction n generalizing l c with
  | zero => exact .refl c
  | succ n ih =>
    unfold Event.drainChecks
    split
    · exact .refl c
    · exact (c.endDrain_shared _).trans ((Event.closeOutput_shared _ _).trans (ih _ _))

theorem Event.outputUnavailable_shared (c : Event) (o : PortId) : c.SharedSame (c.outputUnavailable o) :=
  (c.closeOutput_shared o).trans (Event.drainChecks_shared _ _ _)

theorem Event.pickCheck_shared (c : Event) (o : PortId) : c.SharedSame (c.pickCheck o) := by
  unfold Event.pickCheck
  split
  · split
    · exact .refl c
    · dsimp only
      split
      · exact (c.modPort_shared _ _).trans (Event.modPort_shared _ _ _)
      · exact c.modPort_shared _ _
  · exact .refl c

theorem Event.guardFault_shared (c : Event) (p : PortId) (k : FaultKind) : c.SharedSame (c.guardFault p k) := by
  unfold Event.guardFault
  dsimp only
  split
  · exact ((c.modPort_shared _ _).trans (Event.raise_shared _ _)).trans (Event.raiseIf_shared _ _ _)
  · exact c.modPort_shared _ _

theorem Event.clearGuard_shared (c : Event) (p : PortId) : c.SharedSame (c.clearGuard p) :=
  (c.modPort_shared _ _).trans (Event.raiseIf_shared _ _ _)

theorem Event.leaveUp_shared (c : Event) (p : PortId) : c.SharedSame (c.leaveUp p) :=
  (((c.modPort_shared _ _).trans (Event.raise_shared _ _)).trans (Event.raiseIf_shared _ _ _)).trans
    (Event.outputUnavailable_shared _ _)

theorem Event.enterDown_shared (c : Event) (p : PortId) : c.SharedSame (c.enterDown p) := by
  unfold Event.enterDown
  split
  · exact c.leaveUp_shared p
  · exact c.modPort_shared _ _

theorem Event.enterUp_shared (c : Event) (p : PortId) (good : Nat) : c.SharedSame (c.enterUp p good) := by
  unfold Event.enterUp
  dsimp only
  refine .trans (d := if (c.port p).admin = .enabled then _ else _) ?_
    ((Event.raise_shared _ _).trans (Event.pickCheck_shared _ _))
  split
  · exact (c.modPort_shared _ _).trans (Event.modPort_shared _ _ _)
  · exact c.modPort_shared _ _

/-- The end of an event changes the return lists of the ports and the two notice units, and nothing else. -/
theorem Event.joinFreed_shared (c : Event) : c.SharedSame c.joinFreed :=
  Event.foldl_shared _ (fun (c : Event) (x : PortId × Key) => c.modPort_shared x.1 _) _ _

@[simp] theorem Event.finish_pending (c : Event) : c.finish.pending = c.pending := c.joinFreed_shared.2.2.2.2.2
@[simp] theorem Event.finish_groups (c : Event) : c.finish.groups = c.groups := c.joinFreed_shared.1
@[simp] theorem Event.finish_meters (c : Event) : c.finish.meters = c.meters := c.joinFreed_shared.2.1
@[simp] theorem Event.finish_master (c : Event) : c.finish.master = c.master := c.joinFreed_shared.2.2.1
@[simp] theorem Event.finish_spi (c : Event) : c.finish.spi = c.spi := c.joinFreed_shared.2.2.2.2.1

/-! ### The answer to a command -/

@[simp] theorem State.answered_done (s : State) (sp : SupPort) (code : Byte) (c : Event) (d : RespData) :
    s.answered sp code (.done c d) = c.finish.respond sp code .ok d := rfl
@[simp] theorem State.answered_deny (s : State) (sp : SupPort) (code : Byte) (st : Status) (d : RespData) :
    s.answered sp code (.deny st d) = s.respond sp code st d := rfl

/-- A reading command changes its response alone. -/
@[simp] theorem State.answered_reads (s : State) (sp : SupPort) (code : Byte) (d : RespData) :
    s.answered sp code (s.reads d) = s.respond sp code .ok d := by
  rw [State.reads, State.answered_done, Event.finish_of_quiet _ rfl rfl, Event.start_toState]

theorem State.holderOnly_holder (s : State) (sp : SupPort) (a : Answer) (h : s.master.holder = some sp) :
    s.holderOnly sp a = a := by simp [State.holderOnly, h]
theorem State.holderOnly_other (s : State) (sp : SupPort) (a : Answer) (h : s.master.holder ≠ some sp) :
    s.holderOnly sp a = .deny .notMaster .empty := by simp [State.holderOnly, h]

theorem below_of_lt {n pos x : Nat} (h : x < n) (f : Fin n → Answer) : below n pos x f = f ⟨x, h⟩ := by simp [below, h]
theorem below_of_ge {n pos x : Nat} (h : n ≤ x) (f : Fin n → Answer) : below n pos x f = badArg pos := by
  simp [below, Nat.not_lt.mpr h]

@[simp] theorem portByte_toNat (p : PortId) : (portByte p).toNat = p.val := by
  have := p.isLt
  simp only [portByte, BitVec.toNat_ofNat]
  omega

@[simp] theorem below_portByte (pos : Nat) (p : PortId) (f : PortId → Answer) : below 24 pos (portByte p).toNat f = f p := by
  rw [below_of_lt (by simp)]
  simp

theorem fin_toNat {n : Nat} (hn : n ≤ 256) (k : Fin n) : (BitVec.ofNat 8 k.val).toNat = k.val := by
  have := k.isLt
  simp only [BitVec.toNat_ofNat]
  omega

@[simp] theorem below_meter (pos : Nat) (m : Fin 8) (f : Fin 8 → Answer) :
    below 8 pos (BitVec.ofNat 8 m.val).toNat f = f m := by
  rw [below_of_lt (by rw [fin_toNat (by decide)]; exact m.isLt)]
  congr 1
  exact Fin.ext (fin_toNat (by decide) m)

@[simp] theorem named_some {α : Type} (pos : Nat) (a : α) (f : α → Answer) : named pos (some a) f = f a := rfl
@[simp] theorem named_none {α : Type} (pos : Nat) (f : α → Answer) : named pos none f = badArg pos := rfl

/-! ### Flags, picks and faults as the statements name them -/

/-- The evaluation of R141 in the statements' words. -/
theorem Monitor.evaluated_eq (m : Monitor) : m.evaluated = flagAfter m.th m.tl m.waiting m.flag := rfl

/-- A change of a waiting count with its evaluation: the ports it leaves, the edge it raises. -/
theorem Event.setWaiting_eq (c : Event) (o : PortId) (n : Nat) :
    (c.setWaiting o n).toState = waited c.toState o n ∧
      (c.setWaiting o n).raised = c.raised ++ flagEdge c.toState o n ∧ (c.setWaiting o n).freed = c.freed := by
  have hm : ((c.modPort o fun x => { x with monitor := { x.monitor with waiting := n } }).port o).monitor =
      { (c.port o).monitor with waiting := n } := by simp
  have hflag : flagAt c.toState o n = flagAfter (c.port o).monitor.th (c.port o).monitor.tl n (c.port o).monitor.flag := rfl
  unfold Event.setWaiting Event.evaluate
  dsimp only
  rw [hm, Monitor.evaluated_eq]
  dsimp only
  rw [← hflag]
  by_cases h : flagAt c.toState o n = (c.port o).monitor.flag
  · rw [if_pos h]
    refine ⟨?_, ?_, rfl⟩
    · refine State.ext_port (fun q => ?_) rfl rfl rfl rfl rfl rfl
      rw [Event.modPort_port]
      simp only [waited, State.port, Table.get_ofFn]
      have h' : (flagAt c.toState o n != (c.ports.get o).monitor.flag) = false := by
        simp only [State.port] at h; simp [h]
      by_cases hq : q = o
      · subst hq
        simp only [if_true, h', owed, Bool.false_eq_true, false_and, if_false]
        rw [h]; rfl
      · simp [hq, h', owed]
    · simp only [Event.modPort_raised]
      have h' : flagEdge c.toState o n = [] := by simp [flagEdge, h]
      rw [h', List.append_nil]
  · rw [if_neg h]
    refine ⟨?_, ?_, rfl⟩
    · refine State.ext_port (fun q => ?_) rfl rfl rfl rfl rfl rfl
      rw [Event.raise_port, Event.modPort_port]
      simp only [waited, State.port, Table.get_ofFn, Table.get_map, Event.modPort]
      have h' : (flagAt c.toState o n != (c.ports.get o).monitor.flag) = true := by
        simp only [State.port] at h; simp [h]
      by_cases hq : q = o
      · subst hq
        by_cases hu : (c.ports.get q).rx.link = .up ∧ (c.ports.get q).admin ≠ .disabled <;>
          simp [h', owed, Port.oweCongestion, Port.isUp, hu]
      · rw [Table.get_put_ne _ _ hq]
        by_cases hu : (c.ports.get q).rx.link = .up ∧ (c.ports.get q).admin ≠ .disabled <;>
          simp [hq, h', owed, Port.oweCongestion, Port.isUp, hu]
    · have h' : flagEdge c.toState o n = [.congestion o (flagAt c.toState o n)] := by simp [flagEdge, h]
      rw [h']; rfl

/-- The check of R102 reads and changes the ports alone. -/
theorem Event.pickCheck_eq (c : Event) (o : PortId) :
    (c.pickCheck o).toState = afterPick c.toState o ∧ (c.pickCheck o).raised = c.raised ∧
      (c.pickCheck o).freed = c.freed := by
  unfold afterPick Event.pickCheck
  by_cases h : (c.port o).tx.state = .idle ∧ (c.port o).available = true
  · rw [if_pos h, if_pos (by exact h)]
    show _ ∧ _ ∧ _
    cases hk : c.nextPick o with
    | none =>
      have : (Event.start c.toState).nextPick o = none := hk
      simp only [this]
      trivial
    | some k =>
      have : (Event.start c.toState).nextPick o = some k := hk
      simp only [this]
      split <;> trivial
  · rw [if_neg h, if_neg (by exact h)]
    exact ⟨rfl, rfl, rfl⟩

/-- A fault at the guard (R38): the record after it, and the notices it raises once they stand in the order of R186. -/
theorem Event.guardFault_eq (c : Event) (p : PortId) (k : FaultKind) :
    (c.guardFault p k).toState = withPort c.toState p { c.port p with guard := afterFault (c.port p).guard k } ∧
      (c.guardFault p k).freed = c.freed ∧
      (c.raised = [] → sortNotices (c.guardFault p k).raised = faultNotices p (c.port p).guard) := by
  unfold Event.guardFault
  cases h : (c.port p).guard.first with
  | none =>
    cases hm : (c.port p).guard.mode <;>
      simp +decide [h, hm, Event.raiseIf, Event.raise, Event.modPort_toState, afterFault, faultNotices, sortNotices,
        insertNotice, noticeBefore, Notice.pair, NoticeKind.code] <;> intro hr <;> rw [hr] <;> rfl
  | some f =>
    simp [h, Event.modPort_toState, afterFault, faultNotices, sortNotices]
    intro hr; rw [hr]; rfl

/-- Where none of the inputs that lost a place is DRAINING, the drain checks find nothing (R162). -/
theorem Event.drainChecks_of_not_draining (n : Nat) (l : List PortId) (c : Event)
    (h : ∀ i ∈ l, (c.port i).admin ≠ .draining) : c.drainChecks n l = c := by
  cases n with
  | zero => rfl
  | succ n =>
    unfold Event.drainChecks
    have : l.find? c.drained = none := by
      rw [List.find?_eq_none]
      intro i hi
      simp [State.drained, h i hi]
    rw [this]

/-! ### Two events that meet -/

/-- What a completion that meets a cause of unavailability can do (R114): its cell departs, the second event is taken after it,
and between the two the output goes from available to unavailable. -/
theorem execCompletionThen_eq_some {o : PortId} {second : Instr} {s u : State} :
    execCompletionThen o second s = some u ↔
      ∃ src, (s.port o).tx.sendingCell = some src ∧
        exec second ((Event.start s).complete o src).finish = .next u ∧
        (((Event.start s).complete o src).finish.port o).available = true ∧ (u.port o).available = false := by
  unfold execCompletionThen
  rcases (s.port o).tx.sendingCell with _ | src
  · simp
  · cases h : exec second ((Event.start s).complete o src).finish <;> simp [h]
    constructor
    · rintro ⟨⟨ht, hu⟩, rfl⟩
      exact ⟨rfl, ht, hu⟩
    · rintro ⟨rfl, ht, hu⟩
      exact ⟨⟨ht, hu⟩, rfl⟩

end Sys2Proof.Machine
end

