-- ==== Sys2Proof/Laws/Outputs.lean ====
section
/-! SUPPORT. What happens to an output that becomes unavailable, said once and port by port: the places freed, the queues
emptied, the drains that complete; what the close of an event and the check of a pick can change. -/

namespace Sys2Proof.Machine

open Sys2Proof Sys2Proof.Safety

/-! ### Freed places (R50, R51) -/

/-- The account of input `x` with `n` places freed under key `k` (R50). -/
def Port.freePlaces (x : Port) (k : Key) (n : Nat) : Port :=
  if x.lends && n != 0 then
    { x with account := { x.account with pending := x.account.pending.put k (x.account.pending.get k + n) } }
  else x

/-- The freed-slot rule changes the pending counts of its input alone. -/
theorem Event.free_port (c : Event) (i q : PortId) (k : Key) (n : Nat) :
    (c.free i k n).port q = if q = i then (c.port q).freePlaces k n else c.port q := by
  unfold Event.free Port.freePlaces
  by_cases h : ((c.port i).lends && n != 0) = true
  · rw [if_pos h]
    change (c.modPort i fun x => { x with
      account := { x.account with pending := x.account.pending.put k (x.account.pending.get k + n) } }).port q = _
    rw [Event.modPort_port]
    by_cases hq : q = i
    · subst hq; simp only [if_true, if_pos h]
    · simp only [if_neg hq]
  · rw [if_neg h]
    by_cases hq : q = i
    · subst hq; simp only [if_true, if_neg h]
    · simp only [if_neg hq]

@[simp] theorem Event.free_raised (c : Event) (i : PortId) (k : Key) (n : Nat) : (c.free i k n).raised = c.raised := by
  unfold Event.free; split <;> rfl

/-- The keys noted by the freed-slot rule. -/
theorem Event.free_freed (c : Event) (i : PortId) (k : Key) (n : Nat) :
    (c.free i k n).freed = c.freed ++ if (c.port i).lends && n != 0 then [(i, k)] else [] := by
  unfold Event.free; split <;> simp_all

@[simp] theorem Port.freePlaces_lends (x : Port) (k : Key) (n : Nat) : (x.freePlaces k n).lends = x.lends := by
  unfold Port.freePlaces; split <;> rfl

/-- The account after places are freed: the pending count of the key rises by as many where the port lends (R50). -/
theorem Port.freePlaces_account (x : Port) (k : Key) (n : Nat) :
    (x.freePlaces k n).account = if x.lends then
      { x.account with pending := x.account.pending.put k (x.account.pending.get k + n) } else x.account := by
  unfold Port.freePlaces
  cases x.lends <;> by_cases h : n = 0 <;> simp [h]

/-- Nothing but the account changes as places are freed. -/
theorem Port.freePlaces_eq (x : Port) (k : Key) (n : Nat) :
    x.freePlaces k n = { x with account := (x.freePlaces k n).account } := by
  unfold Port.freePlaces; split <;> rfl

/-! ### Key numbers -/

/-- A key other than M is a unicast key (R49). -/
theorem key_cases (k : Key) : k = keyM ∨ ∃ o c, k = unicastKey o c := by
  by_cases h : k.val < 48
  · obtain ⟨o, c, e⟩ := queueNo_surj ⟨k.val, h⟩
    exact .inr ⟨o, c, Fin.ext (by simpa [unicastKey] using (congrArg Fin.val e).symm)⟩
  · exact .inl (Fin.ext (by have := k.isLt; show k.val = 48; omega))

@[simp] theorem Port.occupancy_unicast (x : Port) (o : PortId) (c : Class) :
    x.occupancy (unicastKey o c) = (x.queue o c).length := by
  unfold Port.occupancy
  rw [dif_pos (show (unicastKey o c).val < 48 from (queueNo o c).isLt)]
  rfl

@[simp] theorem Port.occupancy_keyM (x : Port) : x.occupancy keyM = x.copies.length := rfl

theorem Port.putQueue_queue (x : Port) (o q : PortId) (c d : Class) (l : List CellEntry) :
    (x.putQueue o c l).queue q d = if q = o ∧ d = c then l else x.queue q d := by
  unfold Port.putQueue Port.queue
  by_cases h : q = o ∧ d = c
  · obtain ⟨rfl, rfl⟩ := h; simp
  · rw [if_neg h]; exact Table.get_put_ne _ _ (queueNo_ne h)

@[simp] theorem Port.loseOutput_queue (x : Port) (o q : PortId) (c : Class) :
    (x.loseOutput o).queue q c = if q = o then [] else x.queue q c := by
  show ((x.putQueue o .express []).putQueue o .bulk []).queue q c = _
  rw [Port.putQueue_queue, Port.putQueue_queue]
  cases c <;> by_cases h : q = o <;> simp [h]

@[simp] theorem Port.loseOutput_copies (x : Port) (o : PortId) : (x.loseOutput o).copies = pruneCopies o x.copies := rfl
@[simp] theorem Port.loseOutput_account (x : Port) (o : PortId) : (x.loseOutput o).account = x.account := rfl
@[simp] theorem Port.loseOutput_lends (x : Port) (o : PortId) : (x.loseOutput o).lends = x.lends := rfl

/-- A prune only shortens a list (R95). -/
theorem pruneCopies_length_le (o : PortId) (l : List CopyEntry) : (pruneCopies o l).length ≤ l.length :=
  (List.length_filter_le _ _).trans (by simp)

/-- What is left after a prune of `o` does not hold `o` (R95). -/
theorem not_has_of_mem_pruneCopies {o : PortId} {l : List CopyEntry} {e : CopyEntry} (h : e ∈ pruneCopies o l) :
    e.remaining.has o = false := by
  simp only [pruneCopies, List.mem_filter, List.mem_map] at h
  obtain ⟨⟨a, -, rfl⟩, -⟩ := h
  split
  · simp [CopyEntry.lose]
  · rename_i hn; simpa using hn

/-! ### An input as an output becomes unavailable (R61, R95) -/

/-- Input `x` after the flush and prune toward `o`, its freed places taken into its account (R50). -/
def Port.afterLoss (o : PortId) (x : Port) : Port :=
  { x.loseOutput o with
    account := if x.lends then
      { x.account with pending := .ofFn fun k => x.account.pending.get k + (x.occupancy k - (x.loseOutput o).occupancy k) }
      else x.account }

/-- The keys under which input `x` loses places in the flush and prune toward `o`, where it lends, in the order noted. -/
def Port.lossKeys (o : PortId) (x : Port) : List Key :=
  if x.lends then
    (if (x.queue o .bulk).length != 0 then [unicastKey o .bulk] else []) ++
      ((if (x.queue o .express).length != 0 then [unicastKey o .express] else []) ++
        (if x.leavingCopies o != 0 then [keyM] else []))
  else []

/-- The three frees of a flush and prune on the input they belong to. -/
theorem Port.freeLost_eq (o : PortId) (x : Port) :
    (((x.loseOutput o).freePlaces (unicastKey o .bulk) (x.queue o .bulk).length).freePlaces (unicastKey o .express)
      (x.queue o .express).length).freePlaces keyM (x.leavingCopies o) = x.afterLoss o := by
  rw [Port.freePlaces_eq, Port.freePlaces_account, Port.freePlaces_eq (Port.freePlaces _ _ _),
    Port.freePlaces_account, Port.freePlaces_eq (x.loseOutput o), Port.freePlaces_account]
  simp only [Port.loseOutput_lends, Port.loseOutput_account, Port.afterLoss]
  by_cases h : x.lends = true
  · have hne : unicastKey o .bulk ≠ unicastKey o .express := fun e => by simpa using (unicastKey_inj e).2
    have hMb := unicastKey_ne_keyM o .bulk
    have hMe := unicastKey_ne_keyM o .express
    simp only [h, if_true, Port.mk.injEq, true_and, and_true]
    have key : ∀ a : Account, ({ x.loseOutput o with account := a } : Port).lends = x.lends := fun _ => rfl
    simp only [key, h, if_true, Account.mk.injEq, true_and, and_true]
    apply Table.ext_get
    intro k
    rw [Table.get_ofFn]
    rcases key_cases k with rfl | ⟨q, c, rfl⟩
    · simp [hMb.symm, hMe.symm, Port.leavingCopies]
    · rw [Table.get_put_ne _ _ (unicastKey_ne_keyM q c)]
      simp only [Port.occupancy_unicast, Port.loseOutput_queue]
      by_cases hq : q = o
      · subst hq
        cases c
        · simp [hne]
        · simp [hne.symm]
      · have h1 : unicastKey q c ≠ unicastKey o .express := fun e => hq (unicastKey_inj e).1
        have h2 : unicastKey q c ≠ unicastKey o .bulk := fun e => hq (unicastKey_inj e).1
        simp [h1, h2, hq]
  · have key : ∀ a : Account, ({ x.loseOutput o with account := a } : Port).lends = x.lends := fun _ => rfl
    simp only [key, h, Bool.false_eq_true, if_false]

/-- The frees of one input in a flush and prune change that input alone. -/
theorem Event.freeLost_port (o : PortId) (c : Event) (i q : PortId) (x : Port) :
    (c.freeLost o i x).port q = if q = i then
      (((c.port q).freePlaces (unicastKey o .bulk) (x.queue o .bulk).length).freePlaces (unicastKey o .express)
        (x.queue o .express).length).freePlaces keyM (x.leavingCopies o) else c.port q := by
  unfold Event.freeLost
  simp only [Event.free_port]
  by_cases h : q = i <;> simp [h]

@[simp] theorem Event.freeLost_raised (o : PortId) (c : Event) (i : PortId) (x : Port) :
    (c.freeLost o i x).raised = c.raised := by simp [Event.freeLost]

/-- The keys noted by the frees of one input. -/
theorem Event.freeLost_freed (o : PortId) (c : Event) (i : PortId) (x : Port) (h : (c.port i).lends = x.lends) :
    (c.freeLost o i x).freed = c.freed ++ (x.lossKeys o).map fun k => (i, k) := by
  unfold Event.freeLost Port.lossKeys
  simp only [Event.free_freed, Event.free_port, if_true, Port.freePlaces_lends, h, List.append_assoc]
  cases x.lends
  · simp
  · simp only [Bool.true_and, if_true, List.map_append]
    congr 1
    congr 1
    · split <;> rfl
    · congr 1 <;> split <;> rfl

/-- A fold of changes each to a port of its own, over ports named once each. -/
theorem Event.foldl_port (f : Event → PortId → Event) (g : PortId → Port → Port)
    (hf : ∀ e i q, (f e i).port q = if q = i then g i (e.port q) else e.port q) (l : List PortId) (hl : l.Nodup)
    (c : Event) (q : PortId) : (l.foldl f c).port q = if q ∈ l then g q (c.port q) else c.port q := by
  induction l generalizing c with
  | nil => simp
  | cons a l ih =>
    obtain ⟨ha, hl⟩ := List.nodup_cons.1 hl
    rw [List.foldl_cons, ih hl, hf]
    by_cases hq : q = a
    · subst hq; simp [ha]
    · simp [hq]

/-- The flush and prune toward `o` before its own port is taken: every input has lost `o`, its places freed (R61, R95). -/
theorem Event.lost_port (c : Event) (o q : PortId) :
    (allPorts.foldl (fun e i => e.freeLost o i (c.port i))
      ({ c with ports := c.ports.map (Port.loseOutput o) } : Event)).port q = (c.port q).afterLoss o := by
  rw [Event.foldl_port _ (fun i x => ((x.freePlaces (unicastKey o .bulk) ((c.port i).queue o .bulk).length).freePlaces
    (unicastKey o .express) ((c.port i).queue o .express).length).freePlaces keyM ((c.port i).leavingCopies o))
    (fun e i q => ?_) _ nodup_allPorts, if_pos (mem_allPorts q)]
  · have : (({ c with ports := c.ports.map (Port.loseOutput o) } : Event).port q) = (c.port q).loseOutput o :=
      Table.get_map _ _ _
    rw [this, Port.freeLost_eq]
  · rw [Event.freeLost_port]

/-- A fold that frees the places of one input after the other notes their keys in that order. -/
theorem Event.lost_freed (c d : Event) (o : PortId) (l : List PortId) (h : ∀ i, (d.port i).lends = (c.port i).lends) :
    (l.foldl (fun e i => e.freeLost o i (c.port i)) d).freed =
      d.freed ++ l.flatMap fun i => ((c.port i).lossKeys o).map fun k => (i, k) := by
  induction l generalizing d with
  | nil => simp
  | cons a l ih =>
    rw [List.foldl_cons, ih, Event.freeLost_freed _ _ _ _ (h a), List.flatMap_cons, List.append_assoc]
    intro i
    rw [Event.freeLost_port]
    by_cases hi : i = a <;> simp [hi, h]

theorem Event.lost_raised (c d : Event) (o : PortId) (l : List PortId) :
    (l.foldl (fun e i => e.freeLost o i (c.port i)) d).raised = d.raised := by
  induction l generalizing d with
  | nil => rfl
  | cons a l ih => rw [List.foldl_cons, ih, Event.freeLost_raised]

/-! ### An output becomes unavailable (R61, R95, R126, R157) -/

/-- Port `q` as output `o` becomes unavailable, before the waiting count of `o` falls. -/
def State.closedPort (s : State) (o q : PortId) : Port :=
  if q = o then { ((s.port q).afterLoss o).count .flushed (s.owed o) with tx := (s.port q).tx.dropCell }
  else (s.port q).afterLoss o

/-- The state as output `o` becomes unavailable, before its waiting count falls. -/
def State.closed (s : State) (o : PortId) : State := { s with ports := .ofFn (s.closedPort o) }

@[simp] theorem State.closed_port (s : State) (o q : PortId) : (s.closed o).port q = s.closedPort o q :=
  Table.get_ofFn _ _

@[simp] theorem State.closedPort_monitor (s : State) (o q : PortId) : (s.closedPort o q).monitor = (s.port q).monitor := by
  unfold State.closedPort; split <;> rfl

/-- What `closeOutput` does, whole: the ports it leaves, the edge it raises, the keys it notes. -/
theorem Event.closeOutput_eq (c : Event) (o : PortId) :
    (c.closeOutput o).toState =
        waited (c.toState.closed o) o ((c.port o).monitor.waiting - c.owed o) ∧
      (c.closeOutput o).raised = c.raised ++ flagEdge c.toState o ((c.port o).monitor.waiting - c.owed o) ∧
      (c.closeOutput o).freed = c.freed ++ allPorts.flatMap fun i => ((c.port i).lossKeys o).map fun k => (i, k) := by
  have hs := Event.foldl_shared (fun e i => e.freeLost o i (c.port i)) (fun e i => Event.freeLost_shared o e i _)
    allPorts { c with ports := c.ports.map (Port.loseOutput o) }
  have hp := c.lost_port o
  have hr := Event.lost_raised c { c with ports := c.ports.map (Port.loseOutput o) } o allPorts
  have hf := Event.lost_freed c { c with ports := c.ports.map (Port.loseOutput o) } o allPorts fun i => by
    rw [show (({ c with ports := c.ports.map (Port.loseOutput o) } : Event).port i) = (c.port i).loseOutput o from
      Table.get_map _ _ _]; rfl
  unfold Event.closeOutput
  dsimp only
  generalize allPorts.foldl (fun e i => e.freeLost o i (c.port i))
    ({ c with ports := c.ports.map (Port.loseOutput o) } : Event) = d at hs hp hr hf ⊢
  have hst : (d.modPort o fun x => { x.count .flushed (c.owed o) with tx := x.tx.dropCell }).toState =
      c.toState.closed o := by
    refine State.ext_port (fun q => ?_) hs.1 hs.2.1 hs.2.2.1 hs.2.2.2.1 hs.2.2.2.2.1 hs.2.2.2.2.2
    rw [Event.modPort_port, hp, State.closed_port]
    unfold State.closedPort
    by_cases h : q = o
    · subst h; rw [if_pos rfl, if_pos rfl]; rfl
    · rw [if_neg h, if_neg h]
  have hedge : flagEdge (c.toState.closed o) o = flagEdge c.toState o := by
    funext n
    simp only [flagEdge, flagAt, State.closed_port, State.closedPort_monitor]
    rfl
  obtain ⟨h1, h2, h3⟩ := Event.setWaiting_eq (d.modPort o fun x =>
    { x.count .flushed (c.owed o) with tx := x.tx.dropCell }) o ((c.port o).monitor.waiting - c.owed o)
  rw [hst] at h1 h2
  rw [hedge, Event.modPort_raised, hr] at h2
  rw [Event.modPort_freed, hf] at h3
  exact ⟨h1, h2, h3⟩

/-- Port by port, as output `o` becomes unavailable. -/
theorem Event.closeOutput_port (c : Event) (o q : PortId) :
    let n := (c.port o).monitor.waiting - c.owed o
    (c.closeOutput o).port q =
      { c.closedPort o q with
        monitor := if q = o then { (c.port o).monitor with waiting := n, flag := flagAt c.toState o n } else (c.port q).monitor
        tx := owed (flagAt c.toState o n != (c.port o).monitor.flag) (c.closedPort o q) } := by
  show (c.closeOutput o).toState.port q = _
  rw [(c.closeOutput_eq o).1]
  simp only [waited, State.port, Table.get_ofFn]
  simp only [State.closed, Table.get_ofFn, flagAt, State.port, State.closedPort_monitor]
  by_cases h : q = o
  · subst h; rfl
  · simp only [if_neg h]

/-- Nothing waits for an output that has become unavailable (R62, R95). -/
theorem Event.closeOutput_clears (c : Event) (o i : PortId) :
    (∀ d, ((c.closeOutput o).port i).queue o d = []) ∧
      ∀ e ∈ ((c.closeOutput o).port i).copies, e.remaining.has o = false := by
  have hq : ((c.closeOutput o).port i).queues = ((c.port i).loseOutput o).queues ∧
      ((c.closeOutput o).port i).copies = pruneCopies o (c.port i).copies := by
    rw [Event.closeOutput_port]
    dsimp only
    unfold State.closedPort
    split <;> exact ⟨rfl, rfl⟩
  refine ⟨fun d => ?_, fun e he => not_has_of_mem_pruneCopies (hq.2 ▸ he)⟩
  have := Port.loseOutput_queue (c.port i) o o d
  rw [if_pos rfl] at this
  rw [← this]
  unfold Port.queue
  rw [hq.1]

/-- What holds before the drain checks, and is kept by each completion of a drain, holds after them (R162). -/
theorem Event.drainChecks_induct (P : Event → Prop)
    (step : ∀ c i, P c → c.drained i = true → P ((c.endDrain i).closeOutput i)) (n : Nat) (l : List PortId) (c : Event)
    (h : P c) : P (c.drainChecks n l) := by
  induction n generalizing l c with
  | zero => exact h
  | succ n ih =>
    unfold Event.drainChecks
    split
    · exact h
    · rename_i i hi
      exact ih _ _ (step c i h (by simpa using List.find?_some hi))

/-- An output that becomes unavailable moves no administration state (R156). -/
@[simp] theorem Event.closeOutput_admin (c : Event) (o q : PortId) :
    ((c.closeOutput o).port q).admin = (c.port q).admin := by
  rw [Event.closeOutput_port]
  dsimp only
  unfold State.closedPort
  split <;> rfl

/-- The end of a drain takes its own port to DISABLED and moves no other administration state (R162). -/
theorem Event.endDrain_admin (c : Event) (i q : PortId) :
    ((c.endDrain i).port q).admin = if q = i then .disabled else (c.port q).admin := by
  unfold Event.endDrain
  rw [Event.raise_port, Event.modPort_port]
  split <;> rfl

/-- The drain checks take no port out of DISABLED (R162). -/
theorem Event.drainChecks_keeps_disabled (n : Nat) (l : List PortId) (c : Event) (q : PortId)
    (h : (c.port q).admin = .disabled) : ((c.drainChecks n l).port q).admin = .disabled := by
  refine Event.drainChecks_induct (fun d => (d.port q).admin = .disabled) (fun d i hd _ => ?_) n l c h
  rw [Event.closeOutput_admin, Event.endDrain_admin]
  split
  · rfl
  · exact hd

/-- Where every port DRAINING before the drain checks is DRAINING after them, no drain has completed and they have done
nothing (R162). -/
theorem Event.drainChecks_of_noneEnds (n : Nat) (l : List PortId) (c : Event)
    (h : ∀ q, (c.port q).admin = .draining → ((c.drainChecks n l).port q).admin = .draining) :
    c.drainChecks n l = c := by
  cases n with
  | zero => rfl
  | succ n =>
    unfold Event.drainChecks at h ⊢
    cases hl : l.find? c.drained with
    | none => rfl
    | some i =>
      have hd : c.drained i = true := List.find?_some hl
      have hi : (c.port i).admin = .draining := by
        simp only [State.drained, Bool.and_eq_true, beq_iff_eq] at hd
        exact hd.1
      have hend : (((c.endDrain i).closeOutput i).port i).admin = .disabled := by
        rw [Event.closeOutput_admin, Event.endDrain_admin, if_pos rfl]
      have := h i hi
      rw [hl] at this
      rw [Event.drainChecks_keeps_disabled _ _ _ _ hend] at this
      cases this

/-- What holds as output `o` is closed, and is kept by each completion of a drain, holds once `o` is unavailable. -/
theorem Event.outputUnavailable_induct (P : Event → Prop) (o : PortId)
    (step : ∀ c i, P c → c.drained i = true → P ((c.endDrain i).closeOutput i)) (c : Event) (h : P (c.closeOutput o)) :
    P (c.outputUnavailable o) := Event.drainChecks_induct P step _ _ _ h

/-- Where no port is DRAINING, an output becomes unavailable with no drain completing by it (R162). -/
theorem Event.outputUnavailable_of_noDrain (c : Event) (o : PortId) (h : ∀ q, (c.port q).admin ≠ .draining) :
    c.outputUnavailable o = c.closeOutput o := by
  refine Event.drainChecks_of_not_draining _ _ _ fun i _ => ?_
  rw [Event.closeOutput_port]
  dsimp only
  unfold State.closedPort
  split <;> exact h i

/-! ### The end of an event -/

/-- The keys that an event freed for port `q`, in the order in which they join its return list (R51). -/
def Event.joining (c : Event) (q : PortId) : List Key := ((sortFreed c.freed).filter (·.1 = q)).map Prod.snd

/-- The end of an event changes the return lists of the ports alone (R51). -/
theorem Event.joinFreed_port (c : Event) (q : PortId) :
    c.joinFreed.port q = { c.port q with account := { (c.port q).account with
      returnList := (c.joining q).foldl joinKey (c.port q).account.returnList } } := by
  unfold Event.joinFreed Event.joining
  generalize sortFreed c.freed = l
  induction l generalizing c with
  | nil => rfl
  | cons a l ih =>
    rw [List.foldl_cons, ih, Event.modPort_port]
    by_cases h : q = a.1
    · subst h; simp
    · have h' : ¬ a.1 = q := fun e => h e.symm
      simp [h, h']

/-- Port by port, an event ends with its freed keys on the return lists; its notices reach the notice units alone. -/
theorem Event.finish_port (c : Event) (q : PortId) :
    c.finish.port q = { c.port q with account := { (c.port q).account with
      returnList := (c.joining q).foldl joinKey (c.port q).account.returnList } } := c.joinFreed_port q

/-- The notice units after an event (R186). -/
theorem Event.finish_units (c : Event) : c.finish.units = (notify c.toState (sortNotices c.raised)).units := by
  have h : c.joinFreed.raised = c.raised := by
    unfold Event.joinFreed
    generalize sortFreed c.freed = l
    induction l generalizing c with
    | nil => rfl
    | cons a l ih => rw [List.foldl_cons, ih, Event.modPort_raised]
  show (notify c.joinFreed.toState (sortNotices c.joinFreed.raised)).units = _
  simp only [notify, h, c.joinFreed_shared.2.2.2.1]

/-- A key is on a return list that a key has joined when it was there or is that key. -/
theorem mem_joinKey (l : List Key) (k j : Key) : j ∈ joinKey l k ↔ j ∈ l ∨ j = k := by
  unfold joinKey
  split
  · exact ⟨.inl, fun h => h.elim id (· ▸ ‹_›)⟩
  · simp

/-- A key joins a return list at most once (R51). -/
theorem nodup_joinKey {l : List Key} (h : l.Nodup) (k : Key) : (joinKey l k).Nodup := by
  unfold joinKey
  split
  · exact h
  · exact List.nodup_append.2 ⟨h, by simp, by simp; rintro a ha rfl; contradiction⟩

/-! ### The check of a pick (R102) -/

/-- A pick changes, on its output, the arbiter and the cell in service, which the transmitter takes into SENDING; and, for a
copy, the list of its input (R91, R102, R124). -/
theorem Event.pickCheck_port (c : Event) (o q : PortId) :
    (c.pickCheck o).port q = c.port q ∨
      (c.port o).tx.state = .idle ∧ (c.port o).available = true ∧ ∃ k, c.nextPick o = some k ∧
        (c.pickCheck o).port q =
          let x := c.port q
          { x with
            copies := if q = k.input ∧ k.offer = .copy then pickCopy o x.copies else x.copies
            arbiter := if q = o then k.arbiter else x.arbiter
            tx := if q = o then { x.tx with
              state := .sending, service := some { src := k.source, aborted := false, started := false } } else x.tx } := by
  unfold Event.pickCheck
  split
  · rename_i hi
    cases hk : c.nextPick o with
    | none => exact .inl rfl
    | some k =>
      refine .inr ⟨hi.1, hi.2, k, rfl, ?_⟩
      dsimp only
      rw [Event.modPort_port]
      by_cases hc : k.offer = .copy
      · rw [if_pos hc, Event.modPort_port]
        by_cases h1 : q = o <;> by_cases h2 : q = k.input <;> simp [h1, h2, hc] <;> simp_all
      · rw [if_neg hc]
        by_cases h1 : q = o <;> simp [h1, hc]
  · exact .inl rfl

end Sys2Proof.Machine
end

