-- ==== Sys2Proof/Laws/PerInstr.lean ====
section
/-! SUPPORT. One lemma for each command: the record of a well-formed supervisor command is complete and no longer than a
length byte allows (R169). The events of the links, the transmitters and the timers have no record. -/

namespace Sys2Proof.Laws

open Sys2Proof Sys2Proof.Machine

/-- The record that the encoder makes of the command, where it makes one, is complete, between 3 and 258 bytes long, and,
but for UNKNOWN_COMMAND, passes its check (R169, R171). -/
def RecordEncoding.Statement (i : Instr) : Prop :=
  ∀ sp record, i.wf = true → recordOfInstr i = some (sp, record) →
    recordComplete record = true ∧ 3 ≤ record.length ∧ record.length ≤ 258 ∧
      (checkPasses record = true ∨ ∃ r, i = .unknownCommand sp r)

/-- A command with a code and arguments that fit has such a record. -/
theorem recordEncoding_of_args {i : Instr} {sp : SupPort} {code : Byte} {args : List Byte}
    (hr : recordOfInstr i = some (sp, recordOf code args)) (hf : i.wf = true → args.length ≤ 255) :
    RecordEncoding.Statement i := by
  intro sp' record hw h
  rw [hr] at h
  cases h
  have hc := recordOf_complete code (hf hw)
  exact ⟨hc, (length_of_recordComplete hc).1, (length_of_recordComplete hc).2, .inl (checkPasses_recordOf code args)⟩

/-- A command without a record has nothing to show. -/
theorem recordEncoding_of_none {i : Instr} (hr : recordOfInstr i = none) : RecordEncoding.Statement i := by
  intro sp record _ h
  rw [hr] at h
  cases h

theorem RecordEncoding.powerUpReset : RecordEncoding.Statement (.powerUpReset) :=
  recordEncoding_of_none rfl
theorem RecordEncoding.lockAcquired (p : PortId) : RecordEncoding.Statement (.lockAcquired p) :=
  recordEncoding_of_none rfl
theorem RecordEncoding.lockLost (p : PortId) (cut : CutShort) : RecordEncoding.Statement (.lockLost p cut) :=
  recordEncoding_of_none rfl
theorem RecordEncoding.markerReceived (p : PortId) (word : ControlWord) :
    RecordEncoding.Statement (.markerReceived p word) :=
  recordEncoding_of_none rfl
theorem RecordEncoding.hold (p : PortId) : RecordEncoding.Statement (.hold p) :=
  recordEncoding_of_none rfl
theorem RecordEncoding.release (p : PortId) : RecordEncoding.Statement (.release p) :=
  recordEncoding_of_none rfl
theorem RecordEncoding.idleReceived (p : PortId) : RecordEncoding.Statement (.idleReceived p) :=
  recordEncoding_of_none rfl
theorem RecordEncoding.controlErrorWord (p : PortId) : RecordEncoding.Statement (.controlErrorWord p) :=
  recordEncoding_of_none rfl
theorem RecordEncoding.wordDropped (p : PortId) : RecordEncoding.Statement (.wordDropped p) :=
  recordEncoding_of_none rfl
theorem RecordEncoding.abortedCell (p : PortId) : RecordEncoding.Statement (.abortedCell p) :=
  recordEncoding_of_none rfl
theorem RecordEncoding.cellReceptionComplete (p : PortId) (data : List Byte) (closed : CellEnd) :
    RecordEncoding.Statement (.cellReceptionComplete p data closed) :=
  recordEncoding_of_none rfl
theorem RecordEncoding.unitBoundary (o : PortId) : RecordEncoding.Statement (.unitBoundary o) :=
  recordEncoding_of_none rfl
theorem RecordEncoding.departure (o : PortId) : RecordEncoding.Statement (.departure o) :=
  recordEncoding_of_none rfl
theorem RecordEncoding.creditWordCompletion (o : PortId) : RecordEncoding.Statement (.creditWordCompletion o) :=
  recordEncoding_of_none rfl
theorem RecordEncoding.resyncCompletion (o : PortId) : RecordEncoding.Statement (.resyncCompletion o) :=
  recordEncoding_of_none rfl
theorem RecordEncoding.congestionWordCompletion (o : PortId) : RecordEncoding.Statement (.congestionWordCompletion o) :=
  recordEncoding_of_none rfl
theorem RecordEncoding.holdTimerExpiry (o : PortId) : RecordEncoding.Statement (.holdTimerExpiry o) :=
  recordEncoding_of_none rfl
theorem RecordEncoding.mastershipTimerExpiry : RecordEncoding.Statement (.mastershipTimerExpiry) :=
  recordEncoding_of_none rfl
theorem RecordEncoding.transactionAbandoned (sp : SupPort) : RecordEncoding.Statement (.transactionAbandoned sp) :=
  recordEncoding_of_none rfl
theorem RecordEncoding.unknownCommand (sp : SupPort) (record : List Byte) :
    RecordEncoding.Statement (.unknownCommand sp record) := by
  intro sp' record' hw h
  cases h
  simp only [Instr.wf, Bool.and_eq_true] at hw
  exact ⟨hw.1, (length_of_recordComplete hw.1).1, (length_of_recordComplete hw.1).2, .inr ⟨_, rfl⟩⟩
theorem RecordEncoding.status (sp : SupPort) (args : List Byte) : RecordEncoding.Statement (.status sp args) :=
  recordEncoding_of_args rfl argsFit_length
theorem RecordEncoding.portRead (sp : SupPort) (args : List Byte) : RecordEncoding.Statement (.portRead sp args) :=
  recordEncoding_of_args rfl argsFit_length
theorem RecordEncoding.queueRead (sp : SupPort) (args : List Byte) : RecordEncoding.Statement (.queueRead sp args) :=
  recordEncoding_of_args rfl argsFit_length
theorem RecordEncoding.replicationRead (sp : SupPort) (args : List Byte) :
    RecordEncoding.Statement (.replicationRead sp args) :=
  recordEncoding_of_args rfl argsFit_length
theorem RecordEncoding.creditRead (sp : SupPort) (args : List Byte) : RecordEncoding.Statement (.creditRead sp args) :=
  recordEncoding_of_args rfl argsFit_length
theorem RecordEncoding.groupRead (sp : SupPort) (args : List Byte) : RecordEncoding.Statement (.groupRead sp args) :=
  recordEncoding_of_args rfl argsFit_length
theorem RecordEncoding.groupProbe (sp : SupPort) (args : List Byte) : RecordEncoding.Statement (.groupProbe sp args) :=
  recordEncoding_of_args rfl argsFit_length
theorem RecordEncoding.arbiterRead (sp : SupPort) (args : List Byte) :
    RecordEncoding.Statement (.arbiterRead sp args) :=
  recordEncoding_of_args rfl argsFit_length
theorem RecordEncoding.monitorRead (sp : SupPort) (args : List Byte) :
    RecordEncoding.Statement (.monitorRead sp args) :=
  recordEncoding_of_args rfl argsFit_length
theorem RecordEncoding.meterRead (sp : SupPort) (args : List Byte) : RecordEncoding.Statement (.meterRead sp args) :=
  recordEncoding_of_args rfl argsFit_length
theorem RecordEncoding.countersRead (sp : SupPort) (args : List Byte) :
    RecordEncoding.Statement (.countersRead sp args) :=
  recordEncoding_of_args rfl argsFit_length
theorem RecordEncoding.noticesRead (sp : SupPort) (args : List Byte) :
    RecordEncoding.Statement (.noticesRead sp args) :=
  recordEncoding_of_args rfl argsFit_length
theorem RecordEncoding.noticesClear (sp : SupPort) (args : List Byte) :
    RecordEncoding.Statement (.noticesClear sp args) :=
  recordEncoding_of_args rfl argsFit_length
theorem RecordEncoding.noticeConfig (sp : SupPort) (args : List Byte) :
    RecordEncoding.Statement (.noticeConfig sp args) :=
  recordEncoding_of_args rfl argsFit_length
theorem RecordEncoding.claim (sp : SupPort) (args : List Byte) : RecordEncoding.Statement (.claim sp args) :=
  recordEncoding_of_args rfl argsFit_length
theorem RecordEncoding.relinquish (sp : SupPort) (args : List Byte) : RecordEncoding.Statement (.relinquish sp args) :=
  recordEncoding_of_args rfl argsFit_length
theorem RecordEncoding.keepalive (sp : SupPort) (args : List Byte) : RecordEncoding.Statement (.keepalive sp args) :=
  recordEncoding_of_args rfl argsFit_length
theorem RecordEncoding.portAdminEnable (sp : SupPort) (args : List Byte) :
    RecordEncoding.Statement (.portAdminEnable sp args) :=
  recordEncoding_of_args rfl fun h => argsFit_length (by simp only [Instr.wf, Bool.and_eq_true] at h; exact h.1.1)
theorem RecordEncoding.portAdminDrain (sp : SupPort) (args : List Byte) :
    RecordEncoding.Statement (.portAdminDrain sp args) :=
  recordEncoding_of_args rfl fun h => by rw [length_of_namesAction h]; decide
theorem RecordEncoding.portAdminDisable (sp : SupPort) (args : List Byte) :
    RecordEncoding.Statement (.portAdminDisable sp args) :=
  recordEncoding_of_args rfl fun h => by rw [length_of_namesAction h]; decide
theorem RecordEncoding.portReset (sp : SupPort) (args : List Byte) : RecordEncoding.Statement (.portReset sp args) :=
  recordEncoding_of_args rfl argsFit_length
theorem RecordEncoding.portResync (sp : SupPort) (args : List Byte) : RecordEncoding.Statement (.portResync sp args) :=
  recordEncoding_of_args rfl argsFit_length
theorem RecordEncoding.linkParams (sp : SupPort) (args : List Byte) : RecordEncoding.Statement (.linkParams sp args) :=
  recordEncoding_of_args rfl argsFit_length
theorem RecordEncoding.guardSet (sp : SupPort) (args : List Byte) : RecordEncoding.Statement (.guardSet sp args) :=
  recordEncoding_of_args rfl argsFit_length
theorem RecordEncoding.guardResume (sp : SupPort) (args : List Byte) :
    RecordEncoding.Statement (.guardResume sp args) :=
  recordEncoding_of_args rfl argsFit_length
theorem RecordEncoding.groupInstall (sp : SupPort) (args : List Byte) :
    RecordEncoding.Statement (.groupInstall sp args) :=
  recordEncoding_of_args rfl argsFit_length
theorem RecordEncoding.groupRemove (sp : SupPort) (args : List Byte) :
    RecordEncoding.Statement (.groupRemove sp args) :=
  recordEncoding_of_args rfl argsFit_length
theorem RecordEncoding.groupRemoveId (sp : SupPort) (args : List Byte) :
    RecordEncoding.Statement (.groupRemoveId sp args) :=
  recordEncoding_of_args rfl argsFit_length
theorem RecordEncoding.groupFlush (sp : SupPort) (args : List Byte) : RecordEncoding.Statement (.groupFlush sp args) :=
  recordEncoding_of_args rfl argsFit_length
theorem RecordEncoding.weightStage (sp : SupPort) (args : List Byte) :
    RecordEncoding.Statement (.weightStage sp args) :=
  recordEncoding_of_args rfl argsFit_length
theorem RecordEncoding.weightStageRow (sp : SupPort) (args : List Byte) :
    RecordEncoding.Statement (.weightStageRow sp args) :=
  recordEncoding_of_args rfl argsFit_length
theorem RecordEncoding.expressSet (sp : SupPort) (args : List Byte) : RecordEncoding.Statement (.expressSet sp args) :=
  recordEncoding_of_args rfl argsFit_length
theorem RecordEncoding.holdLimit (sp : SupPort) (args : List Byte) : RecordEncoding.Statement (.holdLimit sp args) :=
  recordEncoding_of_args rfl argsFit_length
theorem RecordEncoding.thresholds (sp : SupPort) (args : List Byte) : RecordEncoding.Statement (.thresholds sp args) :=
  recordEncoding_of_args rfl argsFit_length
theorem RecordEncoding.meterSet (sp : SupPort) (args : List Byte) : RecordEncoding.Statement (.meterSet sp args) :=
  recordEncoding_of_args rfl argsFit_length
theorem RecordEncoding.meterStart (sp : SupPort) (args : List Byte) : RecordEncoding.Statement (.meterStart sp args) :=
  recordEncoding_of_args rfl argsFit_length
theorem RecordEncoding.meterStop (sp : SupPort) (args : List Byte) : RecordEncoding.Statement (.meterStop sp args) :=
  recordEncoding_of_args rfl argsFit_length
theorem RecordEncoding.meterCapture (sp : SupPort) (args : List Byte) :
    RecordEncoding.Statement (.meterCapture sp args) :=
  recordEncoding_of_args rfl argsFit_length
theorem RecordEncoding.countersClear (sp : SupPort) (args : List Byte) :
    RecordEncoding.Statement (.countersClear sp args) :=
  recordEncoding_of_args rfl argsFit_length
theorem RecordEncoding.timerPeriod (sp : SupPort) (args : List Byte) :
    RecordEncoding.Statement (.timerPeriod sp args) :=
  recordEncoding_of_args rfl argsFit_length
theorem RecordEncoding.fabricReset (sp : SupPort) (args : List Byte) :
    RecordEncoding.Statement (.fabricReset sp args) :=
  recordEncoding_of_args rfl argsFit_length

end Sys2Proof.Laws
end

