-- ==== Sys2Proof/Tests/Slice0.lean ====
section
/-! SUPPORT. The model's own tests: words and records written out from the manual, one or two small steps for a command, what
the well-formedness checks refuse, and for each statement with hypotheses a concrete state that meets them. -/

namespace Sys2Proof.Tests

open Sys2Proof Sys2Proof.Machine Sys2Proof.Safety

set_option Elab.async false

/-! ### Small states -/

/-- An UP and ENABLED port with every credit lent, its transmitter IDLE. -/
def upPort : Port :=
  { Port.powerUp with
    rx := { Receiver.powerUp with locked := true, link := .up, good := 8 }
    account := { Account.powerUp with outstanding := .ofFn capacity }
    tx := { Transmitter.powerUp with state := .idle, spacing := 3 }
    admin := .enabled }

/-- A bulk cell. -/
def bulkCell : CellEntry :=
  { cls := .bulk, flow := 0x1234#16, plane := 5#8, payload := List.replicate 72 0x11#8, restart := false }

/-- An express cell. -/
def expressCell : CellEntry := { bulkCell with cls := .express }

/-- An entry of group 520 that still owes copies to outputs 1 and 2, the one toward 2 in service. -/
def copyEntry : CopyEntry :=
  { group := 520#12, cls := .bulk, remaining := 6#24, inService := 4#24, flow := 0x1234#16, plane := 5#8,
    payload := List.replicate 72 0x22#8 }

/-- Port 0 holds a bulk cell for output 1 and an entry for outputs 1 and 2. -/
def port0 : Port :=
  { upPort with
    queues := upPort.queues.put (queueNo 1 .bulk) [bulkCell]
    copies := [copyEntry]
    account := { upPort.account with
      outstanding := (upPort.account.outstanding.put (unicastKey 1 .bulk) 5).put keyM 31 } }

/-- Output 1 sends the bulk cell of input 0; its monitor is congested. -/
def port1 : Port :=
  { upPort with
    tx := { upPort.tx with
      state := .sending, service := some { src := .cell 0 .bulk, aborted := false, started := true }
      onLink := some (.cell (unicastHeader 0 bulkCell) bulkCell.payload) }
    monitor := { waiting := 2, th := 2, tl := 1, flag := true } }

/-- Output 2 is HELD with the copy of input 0 aborted, and its timer runs. -/
def port2 : Port :=
  { upPort with
    tx := { upPort.tx with
      state := .held, service := some { src := .copy 0, aborted := true, started := true }, timer := some .ms8 }
    monitor := { upPort.monitor with waiting := 1 } }

/-- Four ways of set 8: groups 520 and 8 in ways 0 and 1. -/
def set8 : GroupSet :=
  { GroupSet.powerUp with
    ways := (GroupSet.powerUp.ways.put 0 { valid := true, tag := 2, sel := .either, fanout := 6#24, hits := 9 }).put 1
      { valid := true, tag := 0, sel := .bulkOnly, fanout := 8#24, hits := 0 } }

/-- A notice unit that takes everything. -/
def openUnit : NoticeUnit :=
  { NoticeUnit.powerUp with
    link := .both, congestion := .both, frozen := .both, stall := .both, fault := true, drainDone := true, evict := true
    alert := true, change := true, capture := true, latched := [⟨.link, 0⟩], alarm := true }

/-- A working part: ports 0, 1 and 2 UP and ENABLED with traffic between them, supervisor 0 the holder. -/
def busy : State :=
  { State.reset with
    ports := ((State.reset.ports.put 0 port0).put 1 port1).put 2 port2
    groups := State.reset.groups.put 8 set8
    meters := State.reset.meters.put 0
      { Meter.powerUp with target := 1, running := true, count := 7, interval := 4, seen := 3 }
    master := { Mastership.powerUp with holder := some .sp0, timer := some .s1 }
    units := ⟨openUnit, NoticeUnit.powerUp⟩ }

/-- `busy` with port `p` changed. -/
def busyWith (p : PortId) (f : Port → Port) : State := withPort busy p (f (busy.port p))

/-- The working part with port 3 DRAINING, its input holding one express cell for output 1. -/
def draining : State :=
  withPort (busyWith 1 fun x => { x with monitor := { x.monitor with waiting := 3 } }) 3
    { upPort with
      queues := upPort.queues.put (queueNo 1 .express) [expressCell]
      account := Account.powerUp
      admin := .draining }

/-- The state after a command. -/
def after (c : Instr) (s : State) : State :=
  match exec c s with
  | .next t => t
  | .fault _ | .refused _ => s

/-- The status and the data of the response that stands on port `sp`. -/
def answer (s : State) (sp : SupPort) : Option (Status × RespData) :=
  (s.spi.get sp).response.map fun r => (r.status, r.data)

/-- The bytes of a cell with the first four header bytes given, flow label 0x1234, plane sequence 7 and a good check. -/
def cellBytes (b0 b1 b2 b3 : Byte) : List Byte :=
  withCheck [b0, b1, b2, b3, 0x12#8, 0x34#8, 7#8] ++ List.replicate 72 0x11#8

/-- The good MARKER of R8, written out. -/
def markerWord : ControlWord := wordOfBytes [0xB4#8, 0x62#8, 0x0F#8, 0xA7#8, 0x91#8, 0x3E#8, 0x5C#8, 0x08#8]

/-- A MARKER with a wrong check byte. -/
def badMarkerWord : ControlWord := wordOfBytes [0xB5#8, 0x62#8, 0x0F#8, 0xA7#8, 0x91#8, 0x3E#8, 0x5C#8, 0x08#8]

/-! ### Words, headers and records written out from the manual -/

/-- The check byte of the header of section 1.2: 0x85. -/
theorem test_header_check :
    withCheck [0x28#8, 0x05#8, 0#8, 0#8, 0x12#8, 0x34#8, 0x07#8] =
      [0x28#8, 0x05#8, 0#8, 0#8, 0x12#8, 0x34#8, 0x07#8, 0x85#8] := by decide +kernel

/-- The header of section 1.2 as received: a unicast EXPRESS cell for output 5 under epoch 2. -/
theorem test_header_read :
    readHeader [0x28#8, 0x05#8, 0#8, 0#8, 0x12#8, 0x34#8, 0x07#8, 0x85#8] =
      { kind := 0#2, cls := .express, epoch := 2#3, port := 5#8, group := 0#12, flow := 0x1234#16, plane := 7#8 } := by
  decide +kernel

/-- The same header as it leaves output 5 after arriving on input 9 (R4): check byte 0x89. -/
theorem test_header_sent :
    unicastHeader 9 { cls := .express, flow := 0x1234#16, plane := 7#8, payload := [], restart := false } =
      [0x20#8, 0x09#8, 0#8, 0#8, 0x12#8, 0x34#8, 0x07#8, 0x89#8] := by decide +kernel

/-- The CREDIT word of section 1.3: epoch 3, key 11, count 2. -/
theorem test_credit_word :
    (LinkUnit.credit 3#3 [(11, 2)]).bytes =
      [0x23#8, 0x2C#8, 0x2F#8, 0xC0#8, 0xFC#8, 0x0F#8, 0xC0#8, 0xF6#8] := by decide +kernel

/-- A HOLD word: type 2 in the upper five bits of byte 0 (R5); 255 - 16 = 0xEF. -/
theorem test_hold_word :
    decodeWord 4 (wordOfBytes [0xEF#8, 0#8, 0#8, 0#8, 0#8, 0#8, 0#8, 0x10#8]) = .hold 4 := by decide +kernel

/-- A RELEASE word: type 3; 255 - 24 = 0xE7. -/
theorem test_release_word :
    decodeWord 4 (wordOfBytes [0xE7#8, 0#8, 0#8, 0#8, 0#8, 0#8, 0#8, 0x18#8]) = .release 4 := by decide +kernel

/-- A received CREDIT word is a CONTROL_ERROR word (R5). -/
theorem test_credit_word_received :
    decodeWord 4 (wordOfBytes [0xF6#8, 0xC0#8, 0x0F#8, 0xFC#8, 0xC0#8, 0x2F#8, 0x2C#8, 0x23#8]) =
      .controlErrorWord 4 := by decide +kernel

/-- PORT_ADMIN(7, DRAIN): 0x20 0x02 0x07 0x01, and 255 - 42 = 0xD5 (R169, R173). -/
theorem test_drain_record :
    decodeRecord .sp0 [0x20#8, 0x02#8, 0x07#8, 0x01#8, 0xD5#8] = some (.portAdminDrain .sp0 [0x07#8, 0x01#8]) := by
  decide +kernel

/-- A record of a code that names no command, and one whose check fails, are UNKNOWN_COMMAND (R171). -/
theorem test_unknown_records :
    decodeRecord .sp0 [0x0F#8, 0x00#8, 0xF0#8] = some (.unknownCommand .sp0 [0x0F#8, 0x00#8, 0xF0#8]) ∧
      decodeRecord .sp0 [0x10#8, 0x00#8, 0xEE#8] = some (.unknownCommand .sp0 [0x10#8, 0x00#8, 0xEE#8]) := by
  decide +kernel

/-- A record that is not complete is no command (R168). -/
theorem test_partial_record : decodeRecord .sp0 [0x20#8, 0x02#8, 0x07#8, 0x01#8] = none := by decide +kernel

/-- Bytes shifted in after the complete record are ignored (R167). -/
theorem test_record_with_more_bytes :
    decodeRecord .sp0 [0x10#8, 0x00#8, 0xEF#8, 0x55#8, 0x10#8] = some (.claim .sp0 []) := by decide +kernel

/-- KEEPALIVE(B), 0x12 0x01 0x01 0xEB, on the lines of SP1 (R167): the most significant bit first, read at rising edges. -/
theorem test_record_on_the_lines :
    decodeLines .sp1 ([
      false, false, false, true, false, false, true, false, false, false, false, false, false, false, false, true,
      false, false, false, false, false, false, false, true, true, true, true, false, true, false, true, true].flatMap
        fun b => [{ clock := false, data := !b }, { clock := true, data := b }]) =
      some (.keepalive .sp1 [0x01#8]) := by decide +kernel

/-- A word cut off after three bytes (R1, R123): its start symbol and those bytes. -/
theorem test_symbols_of_a_word_cut_off :
    LinkUnit.marker.symbols .short 3 =
      [.startOfWord, .data 0x08#8, .data 0x5C#8, .data 0x3E#8] := by decide +kernel

/-- A framed unit becomes its command (R1). -/
theorem test_framed_units :
    decodeUnit 3 .aborted = .abortedCell 3 ∧ decodeUnit 3 .unfinishedWord = .wordDropped 3 ∧
      decodeUnit 3 (.word markerWord) = .markerReceived 3 markerWord := by decide +kernel

/-! ### What is ill formed is refused -/

theorem test_wf_marker_of_another_type :
    (Instr.markerReceived 0 (wordOfBytes [0xEF#8, 0#8, 0#8, 0#8, 0#8, 0#8, 0#8, 0x10#8])).wf = false := by decide +kernel
theorem test_wf_incomplete_record : (Instr.unknownCommand .sp0 [0x0F#8, 0x01#8, 0xF0#8]).wf = false := by decide +kernel
theorem test_wf_record_that_names_a_command :
    (Instr.unknownCommand .sp0 [0x10#8, 0x00#8, 0xEF#8]).wf = false := by decide +kernel
theorem test_wf_arguments_too_long : (Instr.claim .sp0 (List.replicate 256 0#8)).wf = false := by decide +kernel
theorem test_wf_enable_with_drain_action : (Instr.portAdminEnable .sp0 [0#8, 1#8]).wf = false := by decide +kernel
theorem test_wf_enable_with_disable_action : (Instr.portAdminEnable .sp0 [0#8, 2#8]).wf = false := by decide +kernel
theorem test_wf_drain_with_another_action : (Instr.portAdminDrain .sp0 [0#8, 0#8]).wf = false := by decide +kernel
theorem test_wf_disable_with_another_length : (Instr.portAdminDisable .sp0 [2#8]).wf = false := by decide +kernel

/-! ### Steps of the links -/

/-- `busy` with the link of port 3 as given, and its counts. -/
def linkAt (l : LinkState) (good bad : Nat) : State :=
  withPort busy 3 { upPort with rx := { upPort.rx with link := l, good := good, bad := bad } }

/-- Section 12.1: the 16th marker takes HOLDOFF to QUALIFYING. -/
theorem test_sixteenth_marker :
    ((after (.markerReceived 3 badMarkerWord)
      (withPort busy 3 { upPort with rx := { upPort.rx with link := .holdoff, good := 0, holdoff := 15 } })).port 3).rx.link =
        .qualifying := by decide +kernel

/-- Section 1.6: a good count of 5 under a lowered Q of 4 goes UP at the next good marker. -/
theorem test_lowered_q :
    ((after (.markerReceived 3 markerWord)
      (withPort busy 3 { upPort with rx := { upPort.rx with link := .qualifying, good := 5, q := 4 } })).port 3).rx.link =
        .up := by decide +kernel

/-- Section 12.1, step 5: entering UP issues credits under epoch 1 with a RESYNC and a CONGESTION word pending. -/
theorem test_enter_up_issues :
    let x := (after (.markerReceived 3 markerWord) (linkAt .qualifying 7 0)).port 3
    x.epoch = 1#3 ∧ x.account.pending.get keyM = 32 ∧ x.account.pending.get (unicastKey 5 .express) = 2 ∧
      x.tx.resyncWord = some 1#3 ∧ x.tx.congestionUpdate = true := by decide +kernel

/-- A lock lost in UP counts a cell cut short as LINK_LOSS and leaves DOWN (R18, R20). -/
theorem test_lock_lost :
    let x := (after (.lockLost 3 .cell) (linkAt .up 8 0)).port 3
    x.rx.link = .down ∧ x.counters.get Counter.linkLoss.index = 1 ∧ x.tx.state = .down := by decide +kernel

/-! ### Steps of the classifier -/

/-- Section 2.6, row 1, at port 0: a bulk cell for output 5 of the current epoch is accepted; key 10 stands at 1 / 5 / 0. -/
theorem test_cell_accepted :
    let s := withPort busy 5 upPort
    let x := (after (.cellReceptionComplete 0 (cellBytes 0x00#8 5#8 0#8 0#8) .endOfCell) s).port 0
    x.occupancy 10 = 1 ∧ x.account.outstanding.get 10 = 5 ∧ x.account.pending.get 10 = 0 ∧
      x.counters.get Counter.accepted.index = 1 := by decide +kernel

/-- Section 2.6, row 2, at port 0: port field 30 is a BAD_DEST fault that freezes and issues. -/
theorem test_bad_destination :
    let s := busyWith 0 fun x => { x with guard := { x.guard with mode := .freeze } }
    let x := (after (.cellReceptionComplete 0 (cellBytes 0x00#8 30#8 0#8 0#8) .endOfCell) s).port 0
    x.guard.state = .frozen ∧ x.guard.first = some .badDest ∧ x.guard.count = 1 ∧ x.epoch = 1#3 := by decide +kernel

/-- A multicast cell of group 520 takes the fanout of its entry (R29, R71). -/
theorem test_multicast_accepted :
    let t := after (.cellReceptionComplete 0 (cellBytes 0x40#8 0#8 0x02#8 0x08#8) .endOfCell) busy
    ((t.port 0).copies.map (·.remaining)) = [6#24, 6#24] ∧ ((t.groups.get 8).ways.get 0).hits = 10 ∧
      (t.port 2).monitor.waiting = 2 := by decide +kernel

/-! ### Steps of the egress -/

/-- The departure of the bulk cell on output 1 frees its place and picks the copy of input 0 (R125, R91). -/
theorem test_departure :
    let t := after (.departure 1) busy
    (t.port 0).account.pending.get (unicastKey 1 .bulk) = 1 ∧ (t.port 0).account.returnList = [unicastKey 1 .bulk] ∧
      ((t.port 1).tx.service.map (·.src)) = some (.copy 0) := by decide +kernel

/-- The fourth departure of a meter's interval of 4 captures (R149). -/
theorem test_capture :
    ((after (.departure 1) busy).meters.get 0).snapshot = 8 ∧ ((after (.departure 1) busy).meters.get 0).count = 0 := by
  decide +kernel

/-- A drain whose last cell departs completes (R162). -/
theorem test_drain_completes :
    let s := withPort draining 1 { draining.port 1 with
      tx := { (draining.port 1).tx with
        service := some { src := .cell 3 .express, aborted := false, started := true } } }
    ((after (.departure 1) s).port 3).admin = .disabled ∧
      (⟨.drainDone, 3⟩ : NoticePair) ∈ (after (.departure 1) s).units.sp0.latched := by decide +kernel

/-- `busy` with a RESYNC, a map and credits of port 3 offered. -/
def offering : State :=
  withPort busy 3 { upPort with
    account := { upPort.account with
      pending := upPort.account.pending.put 11 2, outstanding := upPort.account.outstanding.put 11 0, returnList := [11] }
    tx := { upPort.tx with resyncWord := some 2#3, congestionUpdate := true } }

/-- The words go by rank (R127): the RESYNC first. -/
theorem test_boundary_resync : ((after (.unitBoundary 3) offering).port 3).tx.onLink = some (.resync 2#3) := by
  decide +kernel

/-- Section 7.3: a counter at 256 sends a MARKER before anything offered. -/
theorem test_boundary_marker :
    ((after (.unitBoundary 3) (withPort offering 3 { offering.port 3 with
      tx := { (offering.port 3).tx with spacing := 256 } })).port 3).tx.onLink = some .marker := by decide +kernel

/-- Port 3 with a unit on its link. -/
def sending (u : LinkUnit) (flight : Option CreditWord) : State :=
  withPort offering 3 { offering.port 3 with
    account := { (offering.port 3).account with inFlight := flight, resyncPending := true }
    tx := { (offering.port 3).tx with onLink := some u } }

/-- A CREDIT word moves its counts from pending to outstanding (R53). -/
theorem test_credit_completes :
    let x := (after (.creditWordCompletion 3) (sending (.credit 0#3 [(11, 2)]) (some ⟨0#3, [(11, 2)], false⟩))).port 3
    x.account.outstanding.get 11 = 2 ∧ x.account.pending.get 11 = 0 ∧ x.account.returnList = [] := by decide +kernel

/-- A RESYNC of another epoch leaves the flag set, one of the current epoch clears it (R56). -/
theorem test_resync_completes :
    ((after (.resyncCompletion 3) (sending (.resync 1#3) none)).port 3).account.resyncPending = true ∧
      ((after (.resyncCompletion 3) (sending (.resync 0#3) none)).port 3).account.resyncPending = false := by
  decide +kernel

/-- A CONGESTION word raises the spacing counter at its end (R128). -/
theorem test_congestion_completes :
    ((after (.congestionWordCompletion 3) (sending (.congestion 2#24) none)).port 3).tx.spacing = 4 := by decide +kernel

/-- Section 12.4, step 1: HOLD aborts the cell in service and starts the timer. -/
theorem test_hold :
    let t := after (.hold 1) busy
    (t.port 1).tx.state = .held ∧ (t.port 1).tx.timer = some .ms8 ∧
      ((t.port 0).queue 1 .bulk).map (·.restart) = [true] := by decide +kernel

/-- The cell that a HOLD cuts off is closed with an abort mark (R132), one that departs with its end-of-cell symbol (R1). -/
theorem test_closed :
    ((after (.hold 1) busy).port 1).tx.closed = some .abortMark ∧
      ((after (.departure 1) busy).port 1).tx.closed = some .whole := by decide +kernel

/-- RELEASE restarts an aborted copy without a pick (R133). -/
theorem test_release :
    ((after (.release 2) busy).port 2).tx.service = some { src := .copy 0, aborted := false, started := false } := by
  decide +kernel

/-- Section 12.4, step 2: the expiry stalls the output and prunes the entry, which keeps its place for output 1. -/
theorem test_hold_timer :
    let t := after (.holdTimerExpiry 2) busy
    (t.port 2).tx.state = .stalled ∧ (t.port 2).counters.get Counter.flushed.index = 1 ∧
      (t.port 0).copies.map (·.remaining) = [2#24] ∧ (t.port 2).monitor.waiting = 0 := by decide +kernel

/-! ### Steps of the command unit -/

/-- Section 10.2: CLAIM on SP1 while the holder is NONE. -/
theorem test_claim :
    ((after (.claim .sp1 []) State.reset).spi.sp1.response.map (·.record)) =
      some [0x00#8, 0x10#8, 0x02#8, 0x00#8, 0x01#8, 0x01#8, 0xEB#8] := by decide +kernel

/-- Section 10.5: CLAIM from SP1 against an ALERTED holder is a takeover. -/
theorem test_takeover :
    (after (.claim .sp1 []) { busy with master := { busy.master with health := .alerted } }).master.holder = some .sp1 := by
  decide +kernel

/-- Section 12.6, step 5: a KEEPALIVE from a port that is not the holder is answered NOT_MASTER. -/
theorem test_keepalive_not_master :
    answer (after (.keepalive .sp1 [0#8]) busy) .sp1 = some (.notMaster, .empty) := by decide +kernel

/-- Section 12.6, step 3: the expiry of a HEALTHY mastership alerts. -/
theorem test_mastership_expiry : (after .mastershipTimerExpiry busy).master.health = .alerted := by decide +kernel

/-- Section 10.5: TIMER_PERIOD keeps the running timer's period. -/
theorem test_timer_period :
    (after (.timerPeriod .sp0 [0#8]) busy).master.period = .ms50 ∧
      (after (.timerPeriod .sp0 [0#8]) busy).master.timer = some .s1 := by decide +kernel

/-- R13's example: LINK_PARAMS(3, 300, 0, 40) applies 255, 1 and 31. -/
theorem test_link_params :
    answer (after (.linkParams .sp0 [3#8, 0x01#8, 0x2C#8, 0#8, 40#8]) busy) .sp0 = some (.ok, .linkParams 255 1 31) := by
  decide +kernel

/-- R40's example: FREEZE on a guard that has latched an OVERDRAFT freezes it. -/
theorem test_guard_set :
    ((after (.guardSet .sp0 [0#8, 1#8, 0#8]) (busyWith 0 fun x =>
      { x with guard := { x.guard with first := some .overdraft, count := 1 } })).port 0).guard.state = .frozen := by
  decide +kernel

/-- R41's example: GUARD_RESUME on a FROZEN guard with a count of 3. -/
theorem test_guard_resume :
    ((after (.guardResume .sp0 [0#8]) (busyWith 0 fun x =>
      { x with guard := { x.guard with state := .frozen, first := some .badDest, count := 3 } })).port 0).guard =
        Guard.powerUp := by decide +kernel

/-- R58's example: PORT_RESYNC under epoch 1 issues under epoch 2. -/
theorem test_port_resync :
    answer (after (.portResync .sp0 [0#8]) (busyWith 0 fun x => { x with epoch := 1#3 })) .sp0 =
      some (.ok, .resync true 2#3) := by decide +kernel

/-- R58: on a port that is DOWN no issue is made. -/
theorem test_port_resync_down :
    answer (after (.portResync .sp0 [9#8]) busy) .sp0 = some (.ok, .resync false 0#3) := by decide +kernel

/-- R78's example: GROUP_INSTALL(300, EITHER, {1, 4, 25, 30}, AUTO) on an empty set 44. -/
theorem test_group_install :
    answer (after (.groupInstall .sp0 [0x01#8, 0x2C#8, 3#8, 0x42#8, 0#8, 0#8, 0x12#8, 4#8]) busy) .sp0 =
      some (.ok, .install 44 0 .either 0x12#24 .invalidWay true true false) := by decide +kernel

/-- R76's example in set 8: group 8 stands BULK_ONLY in way 1, so EITHER at way 3 is a DUPLICATE that names way 1. -/
theorem test_group_duplicate :
    answer (after (.groupInstall .sp0 [0#8, 8#8, 3#8, 0#8, 0#8, 1#8, 0#8, 3#8]) busy) .sp0 =
      some (.duplicate, .duplicate 1) := by decide +kernel

/-- R79: the removed entry keeps its fields. -/
theorem test_group_remove :
    ((after (.groupRemove .sp0 [0#8, 8#8, 0#8]) busy).groups.get 8).ways.get 0 =
      { valid := false, tag := 2, sel := .either, fanout := 6#24, hits := 9 } := by decide +kernel

/-- R80: the ways removed are named. -/
theorem test_group_remove_id :
    answer (after (.groupRemoveId .sp0 [2#8, 8#8]) busy) .sp0 = some (.ok, .removedWays 1 [0]) := by decide +kernel

/-- R83: a probe of group 8 for EXPRESS misses its BULK_ONLY entry. -/
theorem test_group_probe :
    answer (after (.groupProbe .sp1 [0#8, 8#8, 1#8]) busy) .sp1 =
      some (.ok, .probe none { root := false, l := false, r := false, victim := 0 }) := by decide +kernel

/-- R82: the group id is the tag times 256 and the set. -/
theorem test_group_read :
    answer (after (.groupRead .sp1 [0#8, 8#8, 0#8]) busy) .sp1 =
      some (.ok, .group { valid := true, tag := 2, sel := .either, fanout := 6#24, hits := 9 } 520
        { root := false, l := false, r := false, victim := 0 }) := by decide +kernel

/-- R115's example: EXPRESS_SET(5, 300, 4) at level 1,500. -/
theorem test_express_set :
    answer (after (.expressSet .sp0 [0#8, 0x01#8, 0x2C#8, 4#8])
      (busyWith 0 fun x => { x with arbiter := { x.arbiter with level := 1500 } })) .sp0 =
        some (.ok, .express 256 4 1024) := by decide +kernel

/-- R116's example: a weight of 100 is staged as 63, the current weight kept. -/
theorem test_weight_stage :
    answer (after (.weightStage .sp0 [5#8, 9#8, 100#8]) busy) .sp0 = some (.ok, .weight 63 1 0) := by decide +kernel

/-- R117: every weight of the row is staged. -/
theorem test_weight_stage_row :
    ((after (.weightStageRow .sp0 (5#8 :: List.replicate 24 3#8)) busy).port 5).arbiter.staged.get 23 = 3 := by
  decide +kernel

/-- Section 7.4: HOLD_LIMIT while HELD keeps the running timer. -/
theorem test_hold_limit :
    answer (after (.holdLimit .sp0 [2#8, 1#8]) busy) .sp0 = some (.ok, .holdLimit .ms1 .held (some .ms8)) := by
  decide +kernel

/-- R144's example: THRESHOLDS(TH 4, TL 9) applies TL = 3. -/
theorem test_thresholds :
    answer (after (.thresholds .sp0 [2#8, 0#8, 4#8, 0#8, 9#8]) busy) .sp0 = some (.ok, .thresholds 4 3 1 false) := by
  decide +kernel

/-- R144's example: TH = 0 turns the monitor off and clears the flag. -/
theorem test_thresholds_off :
    answer (after (.thresholds .sp0 [1#8, 0#8, 0#8, 0#8, 7#8]) busy) .sp0 = some (.ok, .thresholds 0 0 2 false) := by
  decide +kernel

/-- R150's example: METER_SET on a RUNNING meter. -/
theorem test_meter_set_running :
    answer (after (.meterSet .sp0 [0#8, 5#8, 1#8, 0#8, 0#8, 0#8, 9#8]) busy) .sp0 = some (.meterRunning, .empty) := by
  decide +kernel

/-- R150: an input of 24 is refused at position 4 for FROM_INPUT alone. -/
theorem test_meter_set_input :
    answer (after (.meterSet .sp0 [1#8, 5#8, 4#8, 24#8, 0#8, 0#8, 9#8]) busy) .sp0 =
      some (.badArgument, .badArgument 4#8) := by decide +kernel

/-- R151: METER_STOP clears the count and keeps the snapshot. -/
theorem test_meter_stop :
    answer (after (.meterStop .sp0 [0#8]) busy) .sp0 = some (.ok, .meterStop false 0 0 0) := by decide +kernel

/-- R151: METER_START on a RUNNING meter changes nothing. -/
theorem test_meter_start :
    answer (after (.meterStart .sp0 [0#8]) busy) .sp0 = some (.ok, .meterStart true true 7 0 3) := by decide +kernel

/-- R152: a manual capture of a RUNNING meter. -/
theorem test_meter_capture :
    answer (after (.meterCapture .sp0 [0#8]) busy) .sp0 = some (.ok, .meterCapture 7 true) := by decide +kernel

/-- R160: a DRAIN of a port whose input holds cells. -/
theorem test_port_admin_drain :
    answer (after (.portAdminDrain .sp0 [0#8, 1#8]) busy) .sp0 =
      some (.ok, .portAdmin .enabled .draining false 0#3 false .up true) := by decide +kernel

/-- R160: a DRAIN of a port whose input holds none completes at once. -/
theorem test_port_admin_drain_empty :
    answer (after (.portAdminDrain .sp0 [1#8, 1#8]) busy) .sp0 =
      some (.ok, .portAdmin .enabled .disabled false 0#3 true .up false) := by decide +kernel

/-- R159: an ENABLE on a link that is DOWN issues nothing. -/
theorem test_port_admin_enable :
    answer (after (.portAdminEnable .sp0 [10#8, 0#8]) busy) .sp0 =
      some (.ok, .portAdmin .disabled .enabled false 0#3 false .down false) := by decide +kernel

/-- R161: a DISABLE flushes what waits for the output. -/
theorem test_port_admin_disable :
    ((after (.portAdminDisable .sp0 [1#8, 2#8]) busy).port 1).counters.get Counter.flushed.index = 2 := by decide +kernel

/-- R165's example: PORT_RESET takes the port out of UP. -/
theorem test_port_reset :
    answer (after (.portReset .sp0 [0#8]) busy) .sp0 = some (.ok, .portReset .up true .enabled false) := by decide +kernel

/-- R190: COUNTERS_CLEAR clears one port. -/
theorem test_counters_clear :
    ((after (.countersClear .sp0 [0#8]) (busyWith 0 fun x => { x with counters := .fill 3 })).port 0).counters.get 7 = 0 := by
  decide +kernel

/-- R48's example at input 0: the head of the bulk queue is in service. -/
theorem test_queue_read :
    answer (after (.queueRead .sp1 [0#8, 1#8]) busy) .sp1 =
      some (.ok, .queue [] [{ flow := 0x1234#16, plane := 5#8, restart := false, inService := true }]) := by decide +kernel

/-- R98: the copy that waits aborted is marked. -/
theorem test_replication_read :
    answer (after (.replicationRead .sp1 [0#8]) busy) .sp1 =
      some (.ok, .replication [{ group := 520#12, cls := .bulk, remaining := 6#24, inService := 4#24, aborted := 4#24,
                                 flow := 0x1234#16, plane := 5#8 }]) := by decide +kernel

/-- R145: the parts of the waiting count. -/
theorem test_monitor_read :
    answer (after (.monitorRead .sp1 [1#8]) busy) .sp1 = some (.ok, .monitor 2 0 1 1 2 1 true 2#24) := by decide +kernel

/-- R175: the entry in service by its position. -/
theorem test_port_read :
    ((answer (after (.portRead .sp1 [2#8]) busy) .sp1).map fun r =>
      match r.2 with
      | .port d => (d.entry, d.timer, d.available)
      | _ => (none, none, false)) = some (some 0, some .ms8, true) := by decide +kernel

/-- R187: the latched pairs with their levels. -/
theorem test_notices_read :
    answer (after (.noticesRead .sp0 []) busy) .sp0 =
      some (.ok, .notices 1 1 [{ kind := .link, index := 0, level := true }] 0) := by decide +kernel

/-- Section 11.4: clearing the last pair releases the alarm line. -/
theorem test_notices_clear :
    (after (.noticesClear .sp0 [1#8, 0#8, 0#8]) busy).units.sp0.alarm = false := by decide +kernel

/-- R185's example: NOTICE_CONFIG(0, 3) from SP1 is about SP1's unit alone. -/
theorem test_notice_config :
    (after (.noticeConfig .sp1 [0#8, 3#8]) busy).units.sp1.link = .both := by decide +kernel

/-- R171, test 1: a failed check echoes code 0. -/
theorem test_failed_check :
    ((after (.unknownCommand .sp1 [0x10#8, 0x00#8, 0xEE#8]) busy).spi.sp1.response.map fun r => (r.code, r.data)) =
      some (0#8, .badArgument 0xFF#8) := by decide +kernel

/-- R183: FABRIC_RESET empties the queues and keeps the group table. -/
theorem test_fabric_reset :
    let t := after (.fabricReset .sp0 []) busy
    (t.port 0).copies = [] ∧ (t.port 1).tx.state = .idle ∧ ((t.groups.get 8).ways.get 0).hits = 9 ∧
      (t.port 1).monitor.flag = false ∧ (t.port 0).epoch = 1#3 := by decide +kernel

/-- R22: power-up reset keeps nothing of the traffic. -/
theorem test_power_up : ((after .powerUpReset busy).port 0).copies = [] := by decide +kernel

/-- A CONTROL_ERROR word in UP is counted and latched (R17, R38). -/
theorem test_control_error :
    let x := (after (.controlErrorWord 0) busy).port 0
    x.counters.get Counter.controlError.index = 1 ∧ x.guard.first = some .controlError := by decide +kernel

/-- Lock acquired with H at 0 goes straight to QUALIFYING (R11). -/
theorem test_lock_acquired :
    ((after (.lockAcquired 3) (withPort busy 3 { upPort with rx := { Receiver.powerUp with h := 0 } })).port 3).rx.link =
      .qualifying := by decide +kernel

/-- R178: the holder gives up mastership and the timer stops. -/
theorem test_relinquish :
    (after (.relinquish .sp0 []) busy).master = Mastership.powerUp := by decide +kernel

/-- R168: an abandoned transaction leaves no response. -/
theorem test_abandoned : (after (.transactionAbandoned .sp0) (after (.claim .sp0 []) busy)).spi.sp0 = SpiPort.powerUp := by
  decide +kernel

/-- R64: the counts of key 2, which is (1, BULK), at input 0. -/
theorem test_credit_read :
    ((answer (after (.creditRead .sp1 [0#8]) busy) .sp1).map fun r =>
      match r.2 with
      | .credit _ _ _ keys _ => keys[2]?
      | _ => none) = some (some { occupancy := 1, outstanding := 5, pending := 0 }) := by decide +kernel

/-- The example of R170 on data-out with two bytes clocked before the response is ready (R167). -/
theorem test_data_out :
    ((after (.claim .sp1 []) State.reset).spi.sp1.dataOut ([0x10#8, 0x00#8, 0xEF#8] ++ List.replicate 11 0#8) 2) =
      List.replicate 5 0xFF#8 ++ [0xA5#8, 0x00#8, 0x10#8, 0x02#8, 0x00#8, 0x01#8, 0x01#8, 0xEB#8] ++ [0xFF#8] := by
  decide +kernel

/-- The start byte 0xA5 on data-out, the most significant bit first, after a record of three bytes (R167). -/
theorem test_data_out_bits :
    (((after (.claim .sp1 []) State.reset).spi.sp1.dataOutBits
      ([0x10#8, 0x00#8, 0xEF#8].flatMap shiftedBits ++ List.replicate 5 true) 0).drop 24) =
      [true, false, true, false, false] := by decide +kernel

/-- `busy` with the pointer at EXPECT_B. -/
def expectsB (armed : Bool) : State := { busy with master := { busy.master with pointer := .expectB, armed := armed } }

/-- The state after two events that meet. -/
def afterBoth (first second : Instr) (s : State) : State :=
  match execTogether first second s with
  | .next t => t
  | .fault _ | .refused _ => s

/-- Section 10.6: a restarting B taken first leaves no expiry; the expiry first alerts, and B restores. -/
theorem test_meeting :
    (afterBoth (.keepalive .sp0 [1#8]) .mastershipTimerExpiry (expectsB true)).units.sp0.latched = [⟨.link, 0⟩] ∧
      (afterBoth .mastershipTimerExpiry (.keepalive .sp0 [1#8]) (expectsB true)).units.sp0.latched =
        [⟨.link, 0⟩, ⟨.alert, 0⟩] ∧
      (afterBoth .mastershipTimerExpiry (.keepalive .sp0 [1#8]) (expectsB true)).master.health = .healthy := by
  decide +kernel

/-- Row 3 of R114 at output 1, which owes the copy of input 0 too: a completion that meets a DISABLE makes no pick, and one
that a DISABLE follows as a later event has made its own, which reloads. -/
theorem test_completion_meets_disable :
    ((afterBoth (.departure 1) (.portAdminDisable .sp0 [1#8, 2#8]) busy).port 1).arbiter.rounds = 0#32 ∧
      ((after (.portAdminDisable .sp0 [1#8, 2#8]) (after (.departure 1) busy)).port 1).arbiter.rounds = 1#32 := by
  decide +kernel

/-! ### Witnesses: for each statement with hypotheses, concrete states and operands that meet them -/

/-- What holds of ports 0, 1, 2 and of a port after reset holds of every port of the working part. -/
theorem busy_ports {P : Port → Prop} (h0 : P port0) (h1 : P port1) (h2 : P port2) (h : P Port.powerUp) (p : PortId) :
    P (busy.port p) := by
  have hp : busy.port p = if p = 2 then port2 else if p = 1 then port1 else if p = 0 then port0 else Port.powerUp := by
    simp only [busy, State.port, Table.get_put, State.reset, Table.get_fill]
  rw [hp]
  split
  · exact h2
  · split
    · exact h1
    · split
      · exact h0
      · exact h

/-- The working part with a departure commanded; its laws are those of `busy`. -/
def busyDeparture : State := { busy with pending := [.departure 1] }

theorem witness_StepRunsTheFrontCommand : busy.pending = [] := rfl

theorem witness_RecordsDecodeToTheirCommand :
    (Instr.weightStageRow .sp1 (List.replicate 25 63#8)).wf = true ∧
      recordOfInstr (.weightStageRow .sp1 (List.replicate 25 63#8)) =
        some (.sp1, recordOf 0x41#8 (List.replicate 25 63#8)) ∧
      (Instr.unknownCommand .sp0 [0x0F#8, 0x00#8, 0xF0#8]).wf = true ∧
      (Instr.portAdminEnable .sp0 [23#8, 3#8]).wf = true ∧
      27 < (recordOf 0x41#8 (List.replicate 25 63#8)).length := by decide +kernel

theorem witness_WrittenOutRecordsAndWords :
    (RespData.badArgument 0xFF#8).bytes.length < 65536 ∧ (Table.fill (n := 15) 4294967295).get 14 < 4294967296 ∧
      255 < 256 := by decide +kernel

theorem witness_SentUnitsCarryTheirContents :
    isCell .marker = false ∧ isCell (.credit 7#3 []) = false ∧
      ([((48 : Key), 32), (0, 6), (1, 2), (47, 2)] : List (Key × Nat)).length ≤ 4 ∧
      ∀ x ∈ ([((48 : Key), 32), (0, 6), (1, 2), (47, 2)] : List (Key × Nat)), x.2 ≤ 32 := by decide +kernel

/-- A word with the byte 0 given, the rest of zeros, and the last byte given. -/
def wordOf (b0 b7 : Byte) : ControlWord := wordOfBytes [b7, 0#8, 0#8, 0#8, 0#8, 0#8, 0#8, b0]

theorem witness_ReceiverFramesAndClassesUnits :
    wordType markerWord = 1#5 ∧ (wordType (wordOf 0x10#8 0#8) ≠ 1#5 ∧ checkPasses (wordOf 0x10#8 0#8).toList = false) ∧
      (wordType (wordOf 0x00#8 0xFF#8) = 0#5 ∧ checkPasses (wordOf 0x00#8 0xFF#8).toList = true) ∧
      (wordType (wordOf 0x10#8 0xEF#8) = 2#5 ∧ checkPasses (wordOf 0x10#8 0xEF#8).toList = true) ∧
      (wordType (wordOf 0x18#8 0xE7#8) = 3#5 ∧ checkPasses (wordOf 0x18#8 0xE7#8).toList = true) ∧
      4 ≤ (wordType (wordOf 0x20#8 0xDF#8)).toNat ∧ 4 ≤ (wordType (wordOf 0xF8#8 0x07#8)).toNat ∧
      (isCell .idle = false ∧ (wordOf 0x00#8 0xFF#8).toList = LinkUnit.idle.bytes) ∧
      goodMarker markerWord = true ∧ (List.replicate 7 (0#8 : Byte)).length < 8 := by decide +kernel

/-- Port 3 of `busy` unlocked, or locked in HOLDOFF at a count of 15. -/
def unlockedAt : State := withPort busy 3 { upPort with rx := Receiver.powerUp }
def holdoffAt : State := withPort busy 3 { upPort with rx := { upPort.rx with link := .holdoff, good := 0, holdoff := 15 } }

theorem witness_QualifierTakesLockAndMarkers :
    ((unlockedAt.port 3).rx.locked = false ∧ (unlockedAt.port 3).rx.link = .down) ∧
      ((holdoffAt.port 3).rx.locked = true ∧ (holdoffAt.port 3).rx.link = .holdoff) ∧
      (((linkAt .qualifying 0 0).port 3).rx.locked = true ∧ ((linkAt .qualifying 0 0).port 3).rx.link = .qualifying) ∧
      (goodMarker badMarkerWord = false ∧ goodMarker markerWord = true) ∧
      ((linkAt .qualifying 6 0).port 3).rx.good + 1 < ((linkAt .qualifying 6 0).port 3).rx.q ∧
      (((linkAt .up 8 2).port 3).rx.locked = true ∧ ((linkAt .up 8 2).port 3).rx.link = .up ∧
        ((linkAt .up 8 2).port 3).rx.bad + 1 < ((linkAt .up 8 2).port 3).rx.f) := by decide +kernel

theorem witness_LinkEntersUp :
    ((linkAt .qualifying 7 0).port 3).rx.locked = true ∧ ((linkAt .qualifying 7 0).port 3).rx.link = .qualifying ∧
      goodMarker markerWord = true ∧
      ((linkAt .qualifying 7 0).port 3).rx.q ≤ ((linkAt .qualifying 7 0).port 3).rx.good + 1 := by decide +kernel

theorem witness_LinkLeavesUp :
    ((linkAt .up 8 3).port 3).rx.locked = true ∧ ((linkAt .up 8 3).port 3).rx.link = .up ∧
      goodMarker badMarkerWord = false ∧ ((linkAt .up 8 3).port 3).rx.f ≤ ((linkAt .up 8 3).port 3).rx.bad + 1 ∧
      NoDrainEnds (linkAt .up 8 3) (after (.markerReceived 3 badMarkerWord) (linkAt .up 8 3)) ∧
      (draining.port 3).admin = .draining ∧ NoDrainEnds draining (after (.lockLost 2 .cell) draining) := by
  unfold NoDrainEnds
  decide +kernel

theorem witness_ReceivedUnitsByLinkState :
    (unlockedAt.port 3).rx.locked = false ∧ (holdoffAt.port 3).rx.link ≠ .up ∧
      ((busy.port 0).rx.locked = true ∧ (busy.port 0).rx.link = .up) := by decide +kernel

/-- A cell that fails its check, and good unicast and multicast cells of epoch 0. -/
def badCell : List Byte := List.replicate 80 0#8
def goodCell : List Byte := cellBytes 0x00#8 1#8 0#8 0#8
def groupCell : List Byte := cellBytes 0x40#8 0#8 0x02#8 0x08#8

/-- `busy` with port 0 lent nothing, not ENABLED, or FROZEN. -/
def poor : State := busyWith 0 fun x => { x with account := { x.account with outstanding := .fill 0 } }
def closed0 : State := busyWith 0 fun x => { x with admin := .disabled }
def frozen0 : State :=
  busyWith 0 fun x => { x with guard := { x.guard with state := .frozen, first := some .overdraft, count := 1 } }

theorem witness_CellsDiscardedWithoutCharge :
    ((holdoffAt.port 3).rx.locked = true ∧ (holdoffAt.port 3).rx.link ≠ .up) ∧
      ((closed0.port 0).rx.locked = true ∧ (closed0.port 0).rx.link = .up ∧ (closed0.port 0).admin ≠ .enabled) ∧
      ((busy.port 0).rx.locked = true ∧ (busy.port 0).rx.link = .up ∧ (busy.port 0).admin = .enabled ∧
        headerError (cellBytes 0x1C#8 1#8 0#8 0#8) .endOfCell = false ∧
        (readHeader (cellBytes 0x1C#8 1#8 0#8 0#8)).epoch ≠ (busy.port 0).epoch) ∧
      ((poor.port 0).rx.locked = true ∧ (poor.port 0).rx.link = .up ∧ (poor.port 0).admin = .enabled ∧
        headerError (cellBytes 0x20#8 23#8 0#8 0#8) .endOfCell = false ∧
        (readHeader (cellBytes 0x20#8 23#8 0#8 0#8)).epoch = (poor.port 0).epoch ∧
        (readHeader (cellBytes 0x20#8 23#8 0#8 0#8)).port.toNat < 24 ∧ (readHeader groupCell).multicast = true ∧
        (poor.port 0).account.outstanding.get (readHeader (cellBytes 0x20#8 23#8 0#8 0#8)).key = 0) := by decide +kernel

theorem witness_HeaderErrorAndBadDestination :
    ((busy.port 0).rx.locked = true ∧ (busy.port 0).rx.link = .up ∧ (busy.port 0).admin = .enabled) ∧
      (headerError badCell .endOfCell = true ∧ headerError goodCell .startSymbol = true ∧
        headerError (goodCell ++ [0#8]) .endOfCell = true ∧ headerError (cellBytes 0x80#8 1#8 0#8 0#8) .endOfCell = true) ∧
      (headerError (cellBytes 0x00#8 24#8 0#8 0#8) .endOfCell = false ∧
        (readHeader (cellBytes 0x00#8 24#8 0#8 0#8)).epoch = (busy.port 0).epoch ∧
        (readHeader (cellBytes 0x00#8 24#8 0#8 0#8)).multicast = false ∧
        24 ≤ (readHeader (cellBytes 0x00#8 24#8 0#8 0#8)).port.toNat) := by decide +kernel

theorem witness_CellsDiscardedAfterCharge :
    (headerError goodCell .endOfCell = false ∧ headerError groupCell .endOfCell = false ∧
      (readHeader goodCell).epoch = (busy.port 0).epoch ∧ (readHeader groupCell).epoch = (busy.port 0).epoch) ∧
      ((frozen0.port 0).guard.state = .frozen ∧ (frozen0.port 0).guard.tolerate = false ∧
        (readHeader groupCell).multicast = true ∧ (frozen0.port 0).account.outstanding.get keyM ≠ 0 ∧
        (readHeader goodCell).multicast = false ∧ (readHeader goodCell).port = portByte 1 ∧
        (frozen0.port 0).account.outstanding.get (unicastKey 1 .bulk) ≠ 0) ∧
      (¬ ((busy.port 0).guard.state = .frozen ∧ (busy.port 0).guard.tolerate = false)) ∧
      ((readHeader (cellBytes 0x00#8 23#8 0#8 0#8)).port = portByte 23 ∧
        (busy.port 0).account.outstanding.get (unicastKey 23 .bulk) ≠ 0 ∧ (busy.port 23).available = false) ∧
      ((readHeader (cellBytes 0x40#8 0#8 0x02#8 0x09#8)).multicast = true ∧
        (busy.groups.get (groupSet 521)).hit (groupTag 521) .bulk = none) ∧
      ((busy.groups.get (groupSet 8)).hit (groupTag 8) .bulk = some 1 ∧
        ∀ o, ((busy.groups.get (groupSet 8)).ways.get 1).fanout.has o = true → (busy.port o).available = false) := by
  decide +kernel

theorem witness_UnicastCellAccepted :
    (busy.port 0).rx.locked = true ∧ (busy.port 0).rx.link = .up ∧ (busy.port 0).admin = .enabled ∧
      headerError goodCell .endOfCell = false ∧ (readHeader goodCell).epoch = (busy.port 0).epoch ∧
      (readHeader goodCell).multicast = false ∧ (readHeader goodCell).port = portByte 1 ∧
      (busy.port 0).account.outstanding.get (unicastKey 1 (readHeader goodCell).cls) ≠ 0 ∧
      (¬ ((busy.port 0).guard.state = .frozen ∧ (busy.port 0).guard.tolerate = false)) ∧
      (busy.port 1).available = true := by decide +kernel

theorem witness_MulticastCellAccepted :
    (busy.port 0).rx.locked = true ∧ (busy.port 0).rx.link = .up ∧ (busy.port 0).admin = .enabled ∧
      headerError groupCell .endOfCell = false ∧ (readHeader groupCell).epoch = (busy.port 0).epoch ∧
      (readHeader groupCell).multicast = true ∧ (busy.port 0).account.outstanding.get keyM ≠ 0 ∧
      (¬ ((busy.port 0).guard.state = .frozen ∧ (busy.port 0).guard.tolerate = false)) ∧
      (busy.groups.get (groupSet (readHeader groupCell).group.toNat)).hit (groupTag (readHeader groupCell).group.toNat)
        (readHeader groupCell).cls = some 0 ∧
      (∀ o, OutSet.has 6#24 o =
        (((busy.groups.get (groupSet (readHeader groupCell).group.toNat)).ways.get 0).fanout.has o &&
          (busy.port o).available)) ∧ (6#24 : OutSet) ≠ OutSet.empty := by decide +kernel

/-- Port 3 with a CREDIT word on its link, void or not. -/
def creditOn (void : Bool) : State := sending (.credit 0#3 [(11, 2)]) (some ⟨0#3, [(11, 2)], void⟩)

theorem witness_WordCompletions :
    (((creditOn true).port 3).tx.onLink = some (.credit 0#3 [(11, 2)]) ∧
      ((creditOn true).port 3).account.inFlight = some ⟨0#3, [(11, 2)], true⟩) ∧
      (((creditOn false).port 3).account.inFlight = some ⟨0#3, [(11, 2)], false⟩ ∧
        ((([((11 : Key), 2)] : List (Key × Nat)).map Prod.fst).Nodup)) ∧
      ((sending (.resync 0#3) none).port 3).tx.onLink = some (.resync 0#3) ∧
      ((sending (.congestion 2#24) none).port 3).tx.onLink = some (.congestion 2#24) := by decide +kernel

theorem witness_ClassSelectorsMatchAndOverlap :
    set8.hit 2 .bulk = some 0 ∧ (GroupSet.powerUp.ways.get 3).sel = .neither := by decide +kernel

theorem witness_PseudoLruTreeAndLookup : GroupLaw set8 ∧ 4095 < 4096 := by
  unfold GroupLaw
  decide +kernel

/-- A set with four valid ways, and one with a second way of tag 2. -/
def fullSet : GroupSet :=
  { set8 with ways := (set8.ways.put 2 { set8.ways.get 1 with tag := 1 }).put 3 { set8.ways.get 1 with tag := 15 } }

/-- The ways of a set that conflict with an install of EITHER. -/
def conflictsWith (g : GroupSet) (tag : Nat) (v : Fin 4) : Bool :=
  decide ((g.ways.get v).valid = true ∧ (g.ways.get v).tag = tag ∧ (g.ways.get v).sel.overlaps .either = true)

/-- Group 520 at way 1 is a duplicate of way 0; group 776 at way 1 evicts; group 520 under AUTO is updated in place; group 776
under AUTO takes the lowest invalid way of set 8, and the victim of a full set. -/
theorem witness_GroupInstallWritesOrRefuses :
    busy.master.holder = some .sp0 ∧ groupSet 520 = 8 ∧ groupTag 520 = 2 ∧ groupTag 776 = 3 ∧ 776 < 4096 ∧
      (busy.groups.get 8 = set8) ∧
      (((0 : Fin 4) ≠ 1 ∧ conflictsWith set8 2 0 ∧ ∀ u : Fin 4, u < 0 → u ≠ 1 → ¬ conflictsWith set8 2 u)) ∧
      ((∀ v : Fin 4, v ≠ 1 → ¬ conflictsWith set8 3 v) ∧ (set8.ways.get 1).valid = true ∧ ¬ conflictsWith set8 3 1) ∧
      (conflictsWith set8 2 0 ∧ (∀ v : Fin 4, v < 0 → ¬ conflictsWith set8 2 v) ∧
        ∀ v : Fin 4, v ≠ 0 → ¬ conflictsWith set8 2 v) ∧
      ((∀ v, ¬ conflictsWith set8 3 v) ∧ (set8.ways.get 2).valid = false ∧
        ∀ v : Fin 4, v < 2 → (set8.ways.get v).valid = true) ∧
      ((∀ v, ¬ conflictsWith fullSet 3 v) ∧ (∀ v, (fullSet.ways.get v).valid = true) ∧ (0 : Fin 4) = fullSet.victim) := by
  refine ⟨?_, ?_, ?_, ?_, ?_, ?_, ?_, ?_, ?_, ?_, ?_⟩ <;> decide +kernel

theorem witness_GroupRemovalsClearValidFlags :
    busy.master.holder = some .sp0 ∧ busy.master.holder ≠ some .sp1 ∧ 256 ≤ (1#8 : Byte).toNat * 256 + (0#8 : Byte).toNat ∧
      ((0#8 : Byte).toNat * 256 + (255#8 : Byte).toNat < 256 ∧ 4 ≤ (4#8 : Byte).toNat) ∧
      4096 ≤ (16#8 : Byte).toNat * 256 + (0#8 : Byte).toNat ∧
      (15#8 : Byte).toNat * 256 + (255#8 : Byte).toNat < 4096 ∧
      let g : GroupSet := { set8 with ways := set8.ways.put 1 { set8.ways.get 1 with valid := false } }
      (∀ u, g.conflicts 3 .either u = false) ∧ (g.ways.get 1).valid = false ∧
        ∀ u : Fin 4, u < 1 → (g.ways.get u).valid = true := by decide +kernel

/-- Output 1 of `busy` IDLE and, as they stand, with no express cell, the bulk cell and a candidate copy; then with an express
cell; and with the copy alone. -/
def idle1 : State :=
  busyWith 1 fun x => { x with tx := { x.tx with state := .idle, service := none, onLink := none } }
def express1 : State :=
  withPort idle1 0 { idle1.port 0 with queues := (idle1.port 0).queues.put (queueNo 1 .express) [expressCell] }
def copy1 : State :=
  withPort idle1 0 { idle1.port 0 with queues := (idle1.port 0).queues.put (queueNo 1 .bulk) [] }

theorem witness_PickCheckTakesTheArbitersChoice :
    (busy.port 1).tx.state ≠ .idle ∧ (busy.port 23).available = false ∧
      (∀ i, (busy.port i).queue 0 .express = [] ∧ (busy.port i).queue 0 .bulk = [] ∧ (busy.port i).candidate 0 = none) ∧
      ((express1.port 1).tx.state = .idle ∧ (express1.port 1).available = true ∧ (express1.port 0).queue 1 .express ≠ [] ∧
        (express1.nextPick 1).map (·.offer) = some .express) ∧
      ((idle1.port 0).queue 1 .bulk ≠ [] ∧ (idle1.nextPick 1).map (·.offer) = some .bulk) ∧
      ((copy1.port 0).candidate 1 ≠ none ∧ (copy1.nextPick 1).map (·.offer) = some .copy) := by decide +kernel

/-- The arbiter of output 1 of `idle1` and `express1` changed. -/
def arbiter1 (s : State) (f : Arbiter → Arbiter) : State := withPort s 1 { s.port 1 with arbiter := f (s.port 1).arbiter }
/-- Input `i` has a candidate for output 1. -/
def eligible1 (s : State) (i : PortId) : Bool :=
  !((s.port i).queue 1 .express).isEmpty || !((s.port i).queue 1 .bulk).isEmpty || ((s.port i).candidate 1).isSome
/-- `s` with its arbiter at 1, every weight and allowance there as given. -/
def weights1 (weight staged allowance : Nat) : State :=
  arbiter1 idle1 fun a => { a with weight := .fill weight, staged := .fill staged, allowance := .fill allowance }

theorem witness_PickFollowsThePhases :
    (256 ≤ ((arbiter1 express1 fun a => { a with level := 256 }).port 1).arbiter.level ∧
      !(((arbiter1 express1 fun a => { a with level := 256 }).port 0).queue 1 .express).isEmpty) ∧
      (((weights1 1 1 1).port 1).arbiter.level < 256 ∧ eligible1 (weights1 1 1 1) 0 = true ∧
        0 < ((weights1 1 1 1).port 1).arbiter.allowance.get 0) ∧
      ((∀ i, eligible1 (weights1 0 1 0) i = true → ((weights1 0 1 0).port 1).arbiter.allowance.get i = 0) ∧
        eligible1 (weights1 0 1 0) 0 = true ∧ ((weights1 0 1 0).port 1).arbiter.staged.get 0 ≠ 0) ∧
      (eligible1 (weights1 1 0 0) 0 = true ∧ ((weights1 1 0 0).port 1).arbiter.weight.get 0 ≠ 0 ∧
        ∀ i, ((weights1 1 0 0).port 1).arbiter.staged.get i = 0) ∧
      (eligible1 (weights1 0 0 0) 0 = true ∧
        ∀ i, ((weights1 0 0 0).port 1).arbiter.weight.get i = 0 ∧ ((weights1 0 0 0).port 1).arbiter.staged.get i = 0) ∧
      (∀ i, eligible1 State.reset i = false) := by decide +kernel

theorem witness_OutputSettingsAreWritten :
    busy.master.holder = some .sp0 ∧ ((0#8 : Byte), HoldLimit.off) ∈
      [((0#8 : Byte), HoldLimit.off), (1#8, .ms1), (2#8, .ms8), (3#8, .ms64)] := by decide +kernel

/-- Output 1 of `busy` at a boundary, its cell not started, and the same for output 2's copy. -/
def cellWaits : State :=
  busyWith 1 fun x => { x with
    tx := { x.tx with service := some { src := .cell 0 .bulk, aborted := false, started := false }, onLink := none } }
def copyWaits : State :=
  busyWith 2 fun x => { x with
    tx := { x.tx with state := .sending, service := some { src := .copy 0, aborted := false, started := false } } }

theorem witness_UnitBoundaryTakesTheFirstThatApplies :
    ((State.reset.port 0).tx.onLink = none ∧ (State.reset.port 0).tx.spacing = 256) ∧
      ((offering.port 3).tx.onLink = none ∧ (offering.port 3).tx.spacing ≠ 256 ∧ (offering.port 3).tx.state ≠ .sending ∧
        (offering.port 3).rx.link = .up ∧ (offering.port 3).tx.resyncWord = some 2#3 ∧
        (offering.port 3).tx.congestionUpdate = true ∧ (offering.port 3).admin ≠ .disabled ∧
        (offering.port 3).admin = .enabled ∧ (offering.port 3).account.returnList ≠ [] ∧
        (offering.port 3).account.resyncPending = false ∧ (offering.port 3).account.inFlight = none) ∧
      ((cellWaits.port 1).tx.onLink = none ∧ (cellWaits.port 1).tx.state = .sending ∧
        (cellWaits.port 1).tx.service = some { src := .cell 0 .bulk, aborted := false, started := false } ∧
        (cellWaits.port 0).queue 1 .bulk = [bulkCell] ∧ (cellWaits.port 1).tx.wordOwed = false) ∧
      ((copyWaits.port 2).tx.onLink = none ∧ (copyWaits.port 2).tx.state = .sending ∧
        (copyWaits.port 2).tx.service = some { src := .copy 0, aborted := false, started := false } ∧
        (copyWaits.port 0).servedCopy 2 = some copyEntry ∧ (copyWaits.port 2).tx.wordOwed = false) ∧
      ((busy.port 0).tx.state ≠ .sending ∧ (busy.port 0).tx.resyncWord = none ∧
        (busy.port 0).tx.congestionUpdate = false ∧ (busy.port 0).account.returnList = []) := by decide +kernel

/-- Input 0 of `busy` DRAINING, with an express cell for output 1 beside the bulk cell that departs. -/
def crowded : State :=
  busyWith 0 fun x => { x with admin := .draining, queues := x.queues.put (queueNo 1 .express) [expressCell] }

theorem witness_CellDeparture :
    (busy.port 1).tx.state = .sending ∧
      (busy.port 1).tx.service = some { src := .cell 0 .bulk, aborted := false, started := true } ∧
      (busy.port 1).tx.onLink = some (.cell (unicastHeader 0 bulkCell) bulkCell.payload) ∧
      (busy.port 0).queue 1 .bulk = [bulkCell] ∧ (∀ m, MeterLaw (busy.meters.get m)) ∧ (busy.port 0).admin ≠ .draining ∧
      (busy.port 0).copies ≠ [] ∧ ∃ q d, ¬ (q = 1 ∧ d = Class.bulk) ∧ (crowded.port 0).queue q d ≠ [] := by
  refine ⟨?_, ?_, ?_, ?_, ?_, ?_, ?_, 1, .express, ?_⟩
  case refine_5 =>
    unfold MeterLaw
    decide +kernel
  all_goals decide +kernel

/-- Output 2 sends its copy; the entry still owes output 1 one, or nothing else. -/
def copySent (remaining : OutSet) : State :=
  withPort (busyWith 2 fun x => { x with
    tx := { x.tx with
      state := .sending, service := some { src := .copy 0, aborted := false, started := true }
      onLink := some (.cell (copyHeader 0 copyEntry) copyEntry.payload) } }) 0
    { busy.port 0 with copies := [{ copyEntry with remaining := remaining }] }

theorem witness_CopyDeparture :
    ((copySent 6#24).port 2).tx.state = .sending ∧
      ((copySent 6#24).port 2).tx.service = some { src := .copy 0, aborted := false, started := true } ∧
      ((copySent 6#24).port 2).tx.onLink = some (.cell (copyHeader 0 copyEntry) copyEntry.payload) ∧
      ((copySent 6#24).port 0).copies = [copyEntry] ∧ copyEntry.inService.has 2 = true ∧
      copyEntry.remaining.drop 2 ≠ OutSet.empty ∧
      ((copySent 4#24).port 0).copies = [{ copyEntry with remaining := 4#24 }] ∧
      OutSet.drop 4#24 2 = OutSet.empty ∧ ((copySent 4#24).port 0).admin ≠ .draining ∧
      ∃ q d, ((copySent 4#24).port 0).queue q d ≠ [] := by
  refine ⟨?_, ?_, ?_, ?_, ?_, ?_, ?_, ?_, ?_, 1, .bulk, ?_⟩ <;> decide +kernel

/-- Output 1 sends the last cell of the DRAINING input 3. -/
def lastCell : State := withPort draining 1 { draining.port 1 with
  tx := { (draining.port 1).tx with service := some { src := .cell 3 .express, aborted := false, started := true } } }

/-- Output 2 sends the last copy of the DRAINING input 0. -/
def lastCopy : State := withPort (copySent 4#24) 0 { (copySent 4#24).port 0 with
  admin := .draining, queues := upPort.queues }

theorem witness_LastDepartureEndsTheDrain :
    (lastCell.port 1).tx.state = .sending ∧
      (lastCell.port 1).tx.service = some { src := .cell 3 .express, aborted := false, started := true } ∧
      (lastCell.port 3).queue 1 .express = [expressCell] ∧ (lastCell.port 3).copies = [] ∧
      (∀ q, (¬ (q = 1 ∧ Class.bulk = .express) → (lastCell.port 3).queue q .bulk = []) ∧
        (¬ (q = 1 ∧ Class.express = .express) → (lastCell.port 3).queue q .express = [])) ∧
      (lastCell.port 3).admin = .draining ∧ (lastCell.units.get .sp0).drainDone = true ∧
      ((lastCopy.port 2).tx.state = .sending ∧
        (lastCopy.port 2).tx.service = some { src := .copy 0, aborted := false, started := true } ∧
        (lastCopy.port 0).admin = .draining ∧ (lastCopy.port 0).copies = [{ copyEntry with remaining := 4#24 }] ∧
        copyEntry.inService.has 2 = true ∧ OutSet.drop 4#24 2 = OutSet.empty ∧
        ∀ q, (lastCopy.port 0).queue q .bulk = [] ∧ (lastCopy.port 0).queue q .express = []) := by decide +kernel

theorem witness_HoldStopsTheOutput :
    ((busy.port 1).rx.locked = true ∧ (busy.port 1).rx.link = .up ∧ (busy.port 1).tx.state = .sending ∧
      (busy.port 1).tx.service = some { src := .cell 0 .bulk, aborted := false, started := true } ∧
      (busy.port 0).queue 1 .bulk = [bulkCell] ∧
      (busy.port 1).tx.onLink = some (.cell (unicastHeader 0 bulkCell) bulkCell.payload)) ∧
      ((cellWaits.port 1).tx.state = .sending ∧ (cellWaits.port 1).tx.onLink.any isCell = false) ∧
      (((copySent 6#24).port 2).tx.state = .sending ∧ ((copySent 6#24).port 2).rx.locked = true) ∧
      ((copyWaits.port 2).tx.state = .sending ∧ (copyWaits.port 2).tx.onLink.any isCell = false) ∧
      ((busy.port 0).tx.state = .idle ∧ (busy.port 0).tx.service = none ∧ (busy.port 0).tx.onLink.any isCell = false) ∧
      (busy.port 2).tx.state = .held := by decide +kernel

/-- Output 2 HELD without a cell, or STALLED. -/
def emptyHeld : State := busyWith 2 fun x => { x with tx := { x.tx with service := none } }
def stalled2 : State := busyWith 2 fun x => { x with tx := { x.tx with state := .stalled, service := none, timer := none } }

theorem witness_ReleaseResumesTheOutput :
    ((busy.port 2).rx.locked = true ∧ (busy.port 2).rx.link = .up ∧ (busy.port 2).tx.state = .held ∧
      (busy.port 2).tx.service = some { src := .copy 0, aborted := true, started := true }) ∧
      ((emptyHeld.port 2).tx.state = .held ∧ (emptyHeld.port 2).tx.service = none) ∧
      (stalled2.port 2).tx.state = .stalled ∧ (busy.port 0).tx.state = .idle := by decide +kernel

theorem witness_HoldTimerExpiryStalls :
    (busy.port 2).tx.state = .held ∧ (busy.port 2).tx.timer ≠ none ∧ (busy.port 2).tx.onLink.any isCell = false ∧
      ((draining.port 2).tx.state = .held ∧ (draining.port 3).admin = .draining) ∧
      NoDrainEnds draining (after (.holdTimerExpiry 2) draining) := by
  unfold NoDrainEnds
  decide +kernel

theorem witness_ThresholdsEvaluateTheFlag : busy.master.holder = some .sp0 := rfl

theorem witness_MeterCommandsActOnOneMeter :
    busy.master.holder = some .sp0 ∧ (busy.meters.get 0).running = true ∧ (busy.meters.get 7).running = false ∧
      ((3#8 : Byte), MeterSel.multicast) ∈ [((0#8 : Byte), MeterSel.all), (1#8, .express), (2#8, .bulk), (3#8, .multicast)] ∧
      ((1#8 : Byte), MeterMode.saturate) ∈ [((0#8 : Byte), MeterMode.wrap), (1#8, .saturate)] := by decide +kernel

theorem witness_PortAdminEnables :
    busy.master.holder = some .sp0 ∧ (busy.port 0).admin = .enabled ∧ (draining.port 3).admin = .draining ∧
      draining.master.holder = some .sp0 ∧ (busy.port 23).admin = .disabled := by decide +kernel

theorem witness_PortAdminDrains :
    busy.master.holder = some .sp0 ∧ ((busy.port 0).admin = .enabled ∧ (busy.port 0).holdsNothing = false) ∧
      ((busy.port 1).admin = .enabled ∧ (busy.port 1).holdsNothing = true ∧ NoOtherDrainEnds 1 busy (after (.portAdminDrain .sp0 [1#8, 1#8]) busy)) ∧
      ((draining.port 2).admin = .enabled ∧ (draining.port 2).holdsNothing = true ∧
        NoOtherDrainEnds 2 draining (after (.portAdminDrain .sp0 [2#8, 1#8]) draining)) ∧
      (draining.port 3).admin = .draining ∧ (busy.port 23).admin = .disabled := by
  unfold NoOtherDrainEnds
  decide +kernel

theorem witness_PortAdminDisables :
    draining.master.holder = some .sp0 ∧ (draining.port 3).admin = .draining ∧
      NoOtherDrainEnds 3 draining (after (.portAdminDisable .sp0 [3#8, 2#8]) draining) ∧
      ((draining.port 0).admin = .enabled ∧
        NoOtherDrainEnds 0 draining (after (.portAdminDisable .sp0 [0#8, 2#8]) draining)) ∧
      (draining.port 23).admin = .disabled := by
  unfold NoOtherDrainEnds
  decide +kernel

theorem witness_PortResetClearsThePort :
    busy.master.holder = some .sp0 ∧ (busy.port 23).rx.link ≠ .up ∧ (busy.port 0).rx.link = .up ∧
      ((draining.port 3).admin = .draining ∧ NoDrainEnds draining (after (.portReset .sp0 [0#8]) draining)) := by
  unfold NoDrainEnds
  decide +kernel

theorem witness_PortSettingsAreWritten :
    busy.master.holder = some .sp0 ∧
      (((1#8 : Byte), GuardMode.freeze) ∈ [((0#8 : Byte), GuardMode.report), (1#8, .freeze)] ∧
        ((0#8 : Byte), false) ∈ [((0#8 : Byte), false), (1#8, true)]) ∧
      ((busyWith 0 fun x => { x with guard := { x.guard with first := some .badDest, count := 255 } }).port 0).guard.first ≠
        none ∧
      ((busy.port 0).rx.link = .up ∧ (busy.port 0).admin = .enabled) ∧
      ¬ ((busy.port 23).rx.link = .up ∧ (busy.port 23).admin = .enabled) := by decide +kernel

theorem witness_FabricResetClearsTraffic :
    busy.master.holder = some .sp0 ∧ (busy.port 0).tx.onLink.any isCell = false ∧
      (busy.port 1).tx.onLink.any isCell = true ∧
      ((busy.port 0).rx.link = .up ∧ (busy.port 0).admin = .enabled) ∧
      ¬ ((busy.port 23).rx.link = .up ∧ (busy.port 23).admin = .enabled) := by decide +kernel

theorem witness_ClaimIsDecidedByHolderAndHealth :
    State.reset.master.holder = none ∧
      (({ busy with master := { busy.master with health := .alerted } } : State).master.holder ≠ some .sp1 ∧
        ({ busy with master := { busy.master with health := .alerted } } : State).master.health = .alerted) ∧
      busy.master.holder = some .sp0 ∧
      (busy.master.holder ≠ none ∧ busy.master.holder ≠ some .sp1 ∧ busy.master.health = .healthy) := by decide +kernel

theorem witness_RelinquishGivesUpMastership : busy.master.holder = some .sp0 ∧ busy.master.holder ≠ some .sp1 := by
  decide +kernel

theorem witness_KeepaliveTimerAndPeriod :
    (busy.master.holder = some .sp0 ∧ busy.master.pointer = .expectA) ∧
      ((expectsB true).master.holder = some .sp0 ∧ (expectsB true).master.pointer = .expectB ∧
        (expectsB true).master.armed = true) ∧
      ((expectsB false).master.pointer = .expectB ∧ (expectsB false).master.armed = false) ∧
      (busy.master.timer ≠ none ∧ busy.master.health = .healthy) ∧
      ((({ busy with master := { busy.master with health := .alerted } } : State).master.timer ≠ none)) ∧
      ((3#8 : Byte), Period.s4) ∈ [((0#8 : Byte), Period.ms50), (1#8, .ms200), (2#8, .s1), (3#8, .s4)] := by decide +kernel

theorem witness_AbandonedAndUnknownRecords :
    (recordComplete [0x10#8, 0x00#8, 0xEE#8] = true ∧ checkPasses [0x10#8, 0x00#8, 0xEE#8] = false) ∧
      (recordComplete [0x0F#8, 0x00#8, 0xF0#8] = true ∧ checkPasses [0x0F#8, 0x00#8, 0xF0#8] = true ∧
        byteAt [0x0F#8, 0x00#8, 0xF0#8] 0 ∉ commandCodes) ∧
      (2 < [0x0F#8, 0x00#8, 0xF0#8].length ∧ (after (.claim .sp1 []) busy).spi.sp1.response.isSome = true) := by
  decide +kernel

theorem witness_MastershipAndLengthAreTestedFirst :
    (holderCommand (.fabricReset .sp1 []) = some (.sp1, 0x61#8) ∧ busy.master.holder ≠ some .sp1) ∧
      (openCommand (.claim .sp1 [0#8]) = some (.sp1, 0x10#8, 0, [0#8]) ∧ [(0#8 : Byte)].length ≠ 0) ∧
      (holderCommand (.weightStageRow .sp0 [0#8]) = some (.sp0, 0x41#8) ∧
        holderLength (.weightStageRow .sp0 [0#8]) = some (25, [0#8]) ∧ busy.master.holder = some .sp0) ∧
      [(0#8 : Byte)].length ≠ 2 * (1#8 : Byte).toNat := by decide +kernel

theorem witness_BadArgumentsAreRefused :
    busy.master.holder = some .sp0 ∧ 24 ≤ (24#8 : Byte).toNat ∧ 8 ≤ (8#8 : Byte).toNat ∧ 4 ≤ (4#8 : Byte).toNat ∧
      2 ≤ (2#8 : Byte).toNat ∧ 3 ≤ (3#8 : Byte).toNat ∧ 5 ≤ (5#8 : Byte).toNat ∧ 10 ≤ (10#8 : Byte).toNat ∧
      256 ≤ (1#8 : Byte).toNat * 256 + (0#8 : Byte).toNat ∧ 4096 ≤ (16#8 : Byte).toNat * 256 + (0#8 : Byte).toNat ∧
      ((3#8 : Byte).toNat < 4 ∧ 4 ≤ (4#8 : Byte).toNat) ∧ (4 ≤ (9#8 : Byte).toNat ∧ (9#8 : Byte).toNat < 10) ∧
      (List.replicate 24 (0#8 : Byte)).length = 24 ∧
      (8 < (9#8 : Byte).toNat ∧ (List.replicate 18 (0#8 : Byte)).length = 2 * (9#8 : Byte).toNat) ∧
      (∀ y ∈ [(⟨.capture, 7⟩ : NoticePair)], y.index < y.kind.indices) ∧
      ([9#8, 7#8] ++ (9#8 : Byte) :: 8#8 :: ([] : List Byte)).length = 2 * (2#8 : Byte).toNat ∧
      NoticeKind.capture.indices ≤ (8#8 : Byte).toNat := by decide +kernel

theorem witness_ReadsReturnTheStateAsItStands :
    (15#8 : Byte).toNat * 256 + (255#8 : Byte).toNat < 4096 ∧
      ((1#8 : Byte), Class.express) ∈ [((0#8 : Byte), Class.bulk), (1#8, .express)] ∧
      (busy.port 2).tx.service = some { src := .copy 0, aborted := true, started := true } ∧
      ((busy.port 0).queue 1 .bulk)[0]? = some bulkCell := by decide +kernel

theorem witness_NoticesLatchInOrder :
    openUnit.takes (.evict 255) = true ∧ openUnit.takes (.link 23 false) = true ∧
      NoticeUnit.powerUp.takes (.link 23 false) = false := by decide +kernel

theorem witness_NoticeCommandsActOnTheOwnUnit :
    [(⟨.link, 23⟩ : NoticePair), ⟨.capture, 7⟩].length ≤ 8 ∧
      (∀ x ∈ [(⟨.link, 23⟩ : NoticePair), ⟨.capture, 7⟩], x.index < x.kind.indices) ∧
      ((3#8 : Byte), EdgeSetting.both) ∈ [((0#8 : Byte), EdgeSetting.none), (1#8, .rise), (2#8, .fall), (3#8, .both)] ∧
      ((1#8 : Byte), true) ∈ [((0#8 : Byte), false), (1#8, true)] := by decide +kernel

/-! The invariants hold in the working part with a departure commanded, and its step answers a next state. -/

theorem witness_step : ∃ t, step busyDeparture = .next t := ⟨_, rfl⟩

theorem witness_StepKeepsReceiversAndGuards (p : PortId) :
    ReceiverLaw (busyDeparture.port p).rx ∧ GuardLaw (busyDeparture.port p).guard := by
  refine busy_ports (P := fun x => ReceiverLaw x.rx ∧ GuardLaw x.guard) ?_ ?_ ?_ ?_ p <;>
    unfold ReceiverLaw GuardLaw <;> decide +kernel

theorem witness_StepKeepsArbitersAndMonitors (p : PortId) :
    ArbiterLaw (busyDeparture.port p).arbiter ∧ MonitorLaw (busyDeparture.port p).monitor := by
  refine busy_ports (P := fun x => ArbiterLaw x.arbiter ∧ MonitorLaw x.monitor) ?_ ?_ ?_ ?_ p <;>
    unfold ArbiterLaw MonitorLaw <;> decide +kernel

theorem witness_StepKeepsNoticesAndMastership :
    (∀ sp, NoticeLaw (busyDeparture.units.get sp)) ∧ MasterLaw busyDeparture.master := by
  refine ⟨fun sp => ?_, ?_⟩
  · cases sp <;> unfold NoticeLaw <;> decide +kernel
  · unfold MasterLaw
    decide +kernel

theorem witness_StepKeepsGroupsAndMeters :
    (∀ g, GroupLaw (busyDeparture.groups.get g)) ∧ ∀ m, MeterLaw (busyDeparture.meters.get m) := by
  refine ⟨fun g => ?_, ?_⟩
  · have hg : busyDeparture.groups.get g = if g = 8 then set8 else GroupSet.powerUp := by
      simp only [busyDeparture, busy, Table.get_put, State.reset, Table.get_fill]
    rw [hg]
    split <;> unfold GroupLaw <;> decide +kernel
  · unfold MeterLaw
    decide +kernel

theorem witness_StepKeepsEntries :
    (∀ p, QueueLaw (busyDeparture.port p) ∧ (∀ e ∈ (busyDeparture.port p).copies, CopyLaw e) ∧
      CellOnLinkLaw (busyDeparture.port p).tx) ∧ UnavailableLaw busyDeparture := by
  refine ⟨fun p => ⟨?_, ?_, ?_⟩, ?_⟩
  · refine busy_ports (P := QueueLaw) ?_ ?_ ?_ ?_ p <;> unfold QueueLaw <;> decide +kernel
  · refine busy_ports (P := fun x => ∀ e ∈ x.copies, CopyLaw e) ?_ ?_ ?_ ?_ p <;> unfold CopyLaw <;> decide +kernel
  · refine busy_ports (P := fun x => CellOnLinkLaw x.tx) ?_ ?_ ?_ ?_ p <;> intro header payload h <;>
      simp [port0, port1, port2, upPort, Port.powerUp, Transmitter.powerUp] at h
    obtain ⟨rfl, rfl⟩ := h
    decide +kernel
  · unfold UnavailableLaw
    decide +kernel

theorem witness_StepConservesCredits (p : PortId) :
    CreditLaw (busyDeparture.port p) ∧ WithdrawnLaw (busyDeparture.port p) ∧ CapacityLaw (busyDeparture.port p) ∧
      ReturnLaw (busyDeparture.port p).account ∧ WordLaw (busyDeparture.port p).account ∧ HeadLaw busyDeparture p := by
  have h : ∀ p, HeadLaw busyDeparture p := by
    unfold HeadLaw
    decide +kernel
  refine ⟨?_, ?_, ?_, ?_, ?_, h p⟩
  · refine busy_ports (P := CreditLaw) ?_ ?_ ?_ ?_ p <;> unfold CreditLaw <;> decide +kernel
  · refine busy_ports (P := WithdrawnLaw) ?_ ?_ ?_ ?_ p <;> unfold WithdrawnLaw <;> decide +kernel
  · refine busy_ports (P := CapacityLaw) ?_ ?_ ?_ ?_ p <;> unfold CapacityLaw <;> decide +kernel
  · refine busy_ports (P := fun x => ReturnLaw x.account) ?_ ?_ ?_ ?_ p <;> unfold ReturnLaw <;> decide +kernel
  · refine busy_ports (P := fun x => WordLaw x.account) ?_ ?_ ?_ ?_ p <;> unfold WordLaw <;> decide +kernel

theorem witness_StepKeepsTransmitters (p : PortId) :
    TransmitterLaw (busyDeparture.port p) ∧ SpacingLaw (busyDeparture.port p).tx ∧ FlightLaw (busyDeparture.port p) := by
  refine busy_ports (P := fun x => TransmitterLaw x ∧ SpacingLaw x.tx ∧ FlightLaw x) ?_ ?_ ?_ ?_ p <;>
    unfold TransmitterLaw SpacingLaw FlightLaw <;> decide +kernel

theorem witness_StepKeepsWaitingCounts :
    (∀ p, TransmitterLaw (busyDeparture.port p) ∧ ∀ e ∈ (busyDeparture.port p).copies, CopyLaw e) ∧
      ServiceLaw busyDeparture ∧ WaitingLaw busyDeparture := by
  refine ⟨fun p => ⟨(witness_StepKeepsTransmitters p).1, (witness_StepKeepsEntries.1 p).2.1⟩, ?_, ?_⟩
  · unfold ServiceLaw HeadLaw
    decide +kernel
  · unfold WaitingLaw
    decide +kernel

/-- `lastCell` with the departure commanded. -/
def lastDeparture : State := { lastCell with pending := [.departure 1] }

theorem witness_StepCompletesDrains :
    (∀ p, DrainLaw (lastDeparture.port p)) ∧ (∃ t, step lastDeparture = .next t) ∧
      (lastDeparture.port 3).admin = .draining ∧ ((after (.departure 1) lastCell).port 3).holdsNothing = true ∧
      lastDeparture.pending.head? ≠ some .powerUpReset ∧
      (lastDeparture.units.get .sp0).drainDone = true := by
  refine ⟨?_, ⟨_, rfl⟩, ?_⟩
  · unfold DrainLaw
    decide +kernel
  · decide +kernel

theorem witness_EventsThatMeet :
    ((busy.port 1).tx.state = .sending ∧
      (busy.port 1).tx.service = some { src := .cell 0 .bulk, aborted := false, started := true } ∧
      (busy.port 1).rx.locked = true ∧ (busy.port 1).rx.link = .up ∧ (busy.port 1).admin ≠ .disabled ∧
      busy.master.holder = some .sp0) ∧
    (SupPort.sp1 ≠ .sp0 ∧ State.reset.master.holder = none) ∧
      ((expectsB true).master.holder = some .sp0 ∧ (expectsB true).master.pointer = .expectB ∧
        (expectsB true).master.armed = true ∧ (expectsB true).master.timer ≠ none ∧
        (expectsB true).master.health = .healthy) ∧
      (let m : Mastership := { (expectsB true).master with health := .alerted }
      m.holder = some .sp0 ∧ m.health = .alerted ∧ m.timer ≠ none ∧ m.pointer = .expectB ∧ m.armed = true) := by
  decide +kernel

end Sys2Proof.Tests
end

/-! # What a command can do to a port

The laws of receivers, guards and entries (O51, O55) rest on one account of what the shared operations can do to a port. -/

namespace Sys2Proof.Machine

open Sys2Proof Sys2Proof.Safety

/-! ### Two ports compared -/

/-- The entries of `y` are entries of `x`, or what is left of them: a queue gains nothing, an entry keeps its class and its
payload, and a copy loses outputs at most. -/
structure Port.Entries (x y : Port) : Prop where
  queue : ∀ o c, ∀ e ∈ y.queue o c, ∃ a ∈ x.queue o c, a.cls = e.cls ∧ a.payload = e.payload
  copies : ∀ e ∈ y.copies, ∃ a ∈ x.copies,
    (∀ o, e.remaining.has o = true → a.remaining.has o = true) ∧ (CopyLaw a → CopyLaw e)

/-- `y` has no entry that `x` has not, and no unit on its link that `x` has not. -/
structure Port.Carries (x y : Port) : Prop extends x.Entries y where
  onLink : y.tx.onLink = none ∨ y.tx.onLink = x.tx.onLink

/-- `y` is a port that has gained no entry, its receiver and guard as those of `x`. -/
structure Port.Frame (x y : Port) : Prop extends x.Carries y where
  rx : y.rx = x.rx
  guard : y.guard = x.guard

/-- As `Port.Frame`, and an output that was available is available still. -/
structure Port.Calm (x y : Port) : Prop extends x.Frame y where
  available : x.available = true → y.available = true

theorem Port.Entries.of_eq {x y : Port} (hq : y.queues = x.queues) (hc : y.copies = x.copies) : x.Entries y where
  queue o c e he := ⟨e, by simpa only [Port.queue, hq] using he, rfl, rfl⟩
  copies e he := ⟨e, hc ▸ he, fun _ h => h, id⟩

theorem Port.Entries.trans {x y z : Port} (h : x.Entries y) (h' : y.Entries z) : x.Entries z where
  queue o c e he := by
    obtain ⟨a, ha, hac, hap⟩ := h'.queue o c e he
    obtain ⟨b, hb, hbc, hbp⟩ := h.queue o c a ha
    exact ⟨b, hb, hbc.trans hac, hbp.trans hap⟩
  copies e he := by
    obtain ⟨a, ha, har, hal⟩ := h'.copies e he
    obtain ⟨b, hb, hbr, hbl⟩ := h.copies a ha
    exact ⟨b, hb, fun o ho => hbr o (har o ho), fun hl => hal (hbl hl)⟩

theorem Port.Carries.trans {x y z : Port} (h : x.Carries y) (h' : y.Carries z) : x.Carries z where
  toEntries := h.toEntries.trans h'.toEntries
  onLink := h'.onLink.elim .inl fun e => e ▸ h.onLink

theorem Port.Frame.trans {x y z : Port} (h : x.Frame y) (h' : y.Frame z) : x.Frame z where
  toCarries := h.toCarries.trans h'.toCarries
  rx := h'.rx.trans h.rx
  guard := h'.guard.trans h.guard

theorem Port.Calm.trans {x y z : Port} (h : x.Calm y) (h' : y.Calm z) : x.Calm z where
  toFrame := h.toFrame.trans h'.toFrame
  available ha := h'.available (h.available ha)

/-- A change of accounts, arbiters, monitors, counters or transmitters that keeps the link and the output open is calm. -/
theorem Port.Calm.of_eq {x y : Port} (hq : y.queues = x.queues) (hc : y.copies = x.copies) (hr : y.rx = x.rx)
    (hg : y.guard = x.guard) (hl : y.tx.onLink = none ∨ y.tx.onLink = x.tx.onLink)
    (ha : x.available = true → y.available = true) : x.Calm y where
  toEntries := .of_eq hq hc
  onLink := hl
  rx := hr
  guard := hg
  available := ha

theorem Port.Calm.refl (x : Port) : x.Calm x := .of_eq rfl rfl rfl rfl (.inr rfl) id

/-- A change of the transmitter alone is calm where it leaves or ends the unit on the link and does not stall. -/
theorem Port.Calm.of_tx {x : Port} {t : Transmitter} (hl : t.onLink = none ∨ t.onLink = x.tx.onLink)
    (hs : t.state = .stalled → x.tx.state = .stalled) : x.Calm { x with tx := t } :=
  .of_eq rfl rfl rfl rfl hl fun h => by
    simp only [Port.available, Bool.and_eq_true, bne_iff_ne, ne_eq] at h ⊢
    exact ⟨h.1, fun e => h.2 (hs e)⟩

/-! ### Two events compared -/

/-- Port by port, the second event stands to the first as `R` says. -/
def Event.Ports (R : Port → Port → Prop) (c d : Event) : Prop := ∀ q, R (c.port q) (d.port q)

theorem Event.calm_refl (c : Event) : c.Ports Port.Calm c := fun _ => .refl _

theorem Event.Ports.calm_trans {c d e : Event} (h : c.Ports Port.Calm d) (h' : d.Ports Port.Calm e) :
    c.Ports Port.Calm e := fun q => (h q).trans (h' q)

theorem Event.Ports.frame {c d : Event} (h : c.Ports Port.Calm d) : c.Ports Port.Frame d := fun q => (h q).toFrame

theorem Event.Ports.frame_trans {c d e : Event} (h : c.Ports Port.Frame d) (h' : d.Ports Port.Frame e) :
    c.Ports Port.Frame e := fun q => (h q).trans (h' q)

/-- A change of one port stands to it as `R` says where `R` is met there and allows no change elsewhere. -/
theorem Event.modPort_ports {R : Port → Port → Prop} (hR : ∀ x, R x x) (c : Event) (p : PortId) (f : Port → Port)
    (h : R (c.port p) (f (c.port p))) : c.Ports R (c.modPort p f) := by
  intro q
  rw [Event.modPort_port]
  split
  · next e => subst e; exact h
  · exact hR _

/-- A change that finds its port as it leaves it is none. -/
theorem Event.modPort_self {c : Event} {p : PortId} {f : Port → Port} (h : f (c.port p) = c.port p) :
    c.modPort p f = c := by
  unfold Event.modPort
  rw [show f (c.ports.get p) = c.ports.get p from h, Table.put_get_self]

theorem Event.modPort_calm {c : Event} {p : PortId} {f : Port → Port} (h : (c.port p).Calm (f (c.port p))) :
    c.Ports Port.Calm (c.modPort p f) := Event.modPort_ports .refl c p f h

theorem Event.modPort_frame {c : Event} {p : PortId} {f : Port → Port} (h : (c.port p).Frame (f (c.port p))) :
    c.Ports Port.Frame (c.modPort p f) := Event.modPort_ports (fun x => (Port.Calm.refl x).toFrame) c p f h

/-- A fold of calm operations is calm. -/
theorem Event.foldl_calm {α : Type} (f : Event → α → Event) (hf : ∀ (c : Event) a, c.Ports Port.Calm (f c a))
    (l : List α) (c : Event) : c.Ports Port.Calm (l.foldl f c) := by
  induction l generalizing c with
  | nil => exact c.calm_refl
  | cons a l ih => exact (hf c a).calm_trans (ih _)

/-! ### The shared operations -/

theorem Event.raise_calm (c : Event) (n : Notice) : c.Ports Port.Calm (c.raise n) := c.calm_refl

theorem Event.raiseIf_calm (c : Event) (b : Bool) (n : Notice) : c.Ports Port.Calm (c.raiseIf b n) := by
  cases b <;> exact c.calm_refl

theorem Event.count_calm (c : Event) (p : PortId) (k : Counter) : c.Ports Port.Calm (c.count p k) :=
  Event.modPort_calm (.of_eq rfl rfl rfl rfl (.inr rfl) id)

/-- A change of an account alone is calm. -/
theorem Port.calm_account (x : Port) (a : Account) : x.Calm { x with account := a } :=
  .of_eq rfl rfl rfl rfl (.inr rfl) id

theorem Port.issue_calm (x : Port) : x.Calm x.issue := .of_eq rfl rfl rfl rfl (.inr rfl) id

theorem Event.free_calm (c : Event) (i : PortId) (k : Key) (n : Nat) : c.Ports Port.Calm (c.free i k n) := by
  intro q
  rw [Event.free_port]
  split
  · rw [Port.freePlaces_eq]
    exact Port.calm_account _ _
  · exact .refl _

theorem Event.finish_calm (c : Event) (q : PortId) : (c.port q).Calm (c.finish.port q) := by
  rw [Event.finish_port]
  exact Port.calm_account _ _

/-- A monitor replaced, and a congestion update owed or not, is calm (R142). -/
theorem Port.calm_owed (x : Port) (m : Monitor) (b : Bool) : x.Calm { x with monitor := m, tx := owed b x } := by
  refine .of_eq rfl rfl rfl rfl (.inr ?_) fun h => ?_
  · show (owed b x).onLink = _
    unfold owed
    split <;> rfl
  · unfold owed
    split <;> exact h

theorem Event.setWaiting_calm (c : Event) (o : PortId) (n : Nat) : c.Ports Port.Calm (c.setWaiting o n) := by
  intro q
  show Port.Calm _ ((c.setWaiting o n).toState.port q)
  rw [(c.setWaiting_eq o n).1]
  simp only [waited, State.port, Table.get_ofFn]
  exact Port.calm_owed _ _ _

theorem Event.evaluate_calm (c : Event) (o : PortId) : c.Ports Port.Calm (c.evaluate o) := by
  have h : c.evaluate o = c.setWaiting o (c.port o).monitor.waiting := by
    unfold Event.setWaiting
    rw [Event.modPort_self rfl]
  rw [h]
  exact c.setWaiting_calm o _

/-! #### Entries that leave -/

/-- An entry that has lost an output at most meets the law of entries as long as its remaining set is not empty (R87, R95). -/
theorem CopyEntry.lose_law (e : CopyEntry) (o : PortId) (hr : (e.lose o).remaining ≠ OutSet.empty) (h : CopyLaw e) :
    CopyLaw (e.lose o) := by
  obtain ⟨-, hin, hp⟩ := h
  refine ⟨hr, fun q hq => ?_, hp⟩
  simp only [CopyEntry.lose, OutSet.has_drop, Bool.and_eq_true] at hq ⊢
  exact ⟨hq.1, hin q hq.2⟩

theorem CopyEntry.lose_remaining {e : CopyEntry} {o q : PortId} (h : (e.lose o).remaining.has q = true) :
    e.remaining.has q = true := by
  simp only [CopyEntry.lose, OutSet.has_drop, Bool.and_eq_true] at h
  exact h.2

theorem mem_pruneCopies {o : PortId} {l : List CopyEntry} {e : CopyEntry} (h : e ∈ pruneCopies o l) :
    ∃ a ∈ l, (∀ q, e.remaining.has q = true → a.remaining.has q = true) ∧ (CopyLaw a → CopyLaw e) := by
  simp only [pruneCopies, List.mem_filter, List.mem_map, bne_iff_ne] at h
  obtain ⟨⟨a, ha, rfl⟩, hne⟩ := h
  refine ⟨a, ha, ?_⟩
  split at hne
  · next hr =>
    rw [if_pos hr]
    exact ⟨fun q => CopyEntry.lose_remaining, a.lose_law o hne⟩
  · next hr =>
    rw [if_neg hr]
    exact ⟨fun q h => h, id⟩

theorem mem_departCopy {o : PortId} {l : List CopyEntry} {e : CopyEntry} (h : e ∈ departCopy o l) :
    ∃ a ∈ l, (∀ q, e.remaining.has q = true → a.remaining.has q = true) ∧ (CopyLaw a → CopyLaw e) := by
  induction l with
  | nil => cases h
  | cons b l ih =>
    have same : ∀ {e}, e ∈ l → ∃ a ∈ b :: l, (∀ q, e.remaining.has q = true → a.remaining.has q = true) ∧
        (CopyLaw a → CopyLaw e) := fun {e} he => ⟨e, .tail _ he, fun _ h => h, id⟩
    unfold departCopy at h
    split at h
    · split at h
      · exact same h
      · next hne =>
        rcases List.mem_cons.1 h with rfl | he
        · exact ⟨b, .head _, fun q => CopyEntry.lose_remaining, b.lose_law o hne⟩
        · exact same he
    · rcases List.mem_cons.1 h with rfl | he
      · exact ⟨e, .head _, fun _ h => h, id⟩
      · obtain ⟨a, ha, hr⟩ := ih he
        exact ⟨a, .tail _ ha, hr⟩

theorem mem_pickCopy {o : PortId} {l : List CopyEntry} {e : CopyEntry} (h : e ∈ pickCopy o l) :
    ∃ a ∈ l, (∀ q, e.remaining.has q = true → a.remaining.has q = true) ∧ (CopyLaw a → CopyLaw e) := by
  induction l with
  | nil => cases h
  | cons b l ih =>
    unfold pickCopy at h
    split at h
    · next hw =>
      rcases List.mem_cons.1 h with rfl | he
      · refine ⟨b, .head _, fun q h => h, fun ⟨hne, hin, hp⟩ => ⟨hne, fun q hq => ?_, hp⟩⟩
        simp only [CopyEntry.waitsFor, Bool.and_eq_true] at hw
        simp only [OutSet.has_add, Bool.or_eq_true, decide_eq_true_eq] at hq
        rcases hq with rfl | hq
        · exact hw.1
        · exact hin q hq
      · exact ⟨e, .tail _ he, fun _ h => h, id⟩
    · rcases List.mem_cons.1 h with rfl | he
      · exact ⟨e, .head _, fun _ h => h, id⟩
      · obtain ⟨a, ha, hr⟩ := ih he
        exact ⟨a, .tail _ ha, hr⟩

/-! #### An output that becomes unavailable -/

theorem Port.afterLoss_calm (o : PortId) (x : Port) : x.Calm (x.afterLoss o) where
  queue q c e he := by
    have hq : (x.afterLoss o).queue q c = (x.loseOutput o).queue q c := rfl
    rw [hq, Port.loseOutput_queue] at he
    split at he
    · cases he
    · exact ⟨e, he, rfl, rfl⟩
  copies e he := mem_pruneCopies he
  onLink := .inr rfl
  rx := rfl
  guard := rfl
  available h := h

@[simp] theorem Transmitter.abortCell_state (t : Transmitter) : t.abortCell.state = t.state := by
  rw [Transmitter.abortCell_eq]; split <;> rfl

/-- A cell closed by an abort mark is off the link; any other unit goes on (R126). -/
theorem Transmitter.abortCell_onLink (t : Transmitter) :
    t.abortCell.onLink = none ∨ t.abortCell.onLink = t.onLink := by
  rw [Transmitter.abortCell_eq]
  split
  · exact .inl rfl
  · exact .inr rfl

theorem Transmitter.dropCell_onLink (t : Transmitter) : t.dropCell.onLink = none ∨ t.dropCell.onLink = t.onLink := by
  unfold Transmitter.dropCell
  split
  · exact t.abortCell_onLink
  · exact .inr rfl

/-- The drop of a cell neither stalls a transmitter nor ends a stall (R126). -/
theorem Transmitter.dropCell_stalled (t : Transmitter) : t.dropCell.state = .stalled ↔ t.state = .stalled := by
  unfold Transmitter.dropCell
  split
  · cases h : t.state <;> simp
  · rfl

theorem State.closedPort_calm (s : State) (o q : PortId) : (s.port q).Calm (s.closedPort o q) := by
  have hl := Port.afterLoss_calm o (s.port q)
  unfold State.closedPort
  split
  · refine hl.trans (.of_eq rfl rfl rfl rfl (Transmitter.dropCell_onLink _) fun h => ?_)
    simp only [Port.available, Bool.and_eq_true, bne_iff_ne, ne_eq] at h ⊢
    exact ⟨h.1, fun e => h.2 ((Transmitter.dropCell_stalled _).1 e)⟩
  · exact hl

theorem Event.closeOutput_calm (c : Event) (o : PortId) : c.Ports Port.Calm (c.closeOutput o) := by
  intro q
  rw [Event.closeOutput_port]
  exact (State.closedPort_calm _ o q).trans (Port.calm_owed _ _ _)

theorem Event.endDrain_frame (c : Event) (i : PortId) : c.Ports Port.Frame (c.endDrain i) :=
  (Event.modPort_frame ⟨⟨.of_eq rfl rfl, .inr rfl⟩, rfl, rfl⟩ :
    c.Ports Port.Frame (c.modPort i fun x => { x.withdraw with admin := .disabled }))

theorem Event.drainChecks_frame (n : Nat) (l : List PortId) (c : Event) :
    c.Ports Port.Frame (c.drainChecks n l) :=
  Event.drainChecks_induct (fun d => c.Ports Port.Frame d)
    (fun d i h _ => (h.frame_trans (d.endDrain_frame i)).frame_trans (Event.closeOutput_calm _ i).frame) n l c
    c.calm_refl.frame

theorem Event.outputUnavailable_frame (c : Event) (o : PortId) : c.Ports Port.Frame (c.outputUnavailable o) :=
  (c.closeOutput_calm o).frame.frame_trans (Event.drainChecks_frame _ _ _)

/-! #### Picks -/

theorem Event.pickCheck_calm (c : Event) (o : PortId) : c.Ports Port.Calm (c.pickCheck o) := by
  intro q
  rcases c.pickCheck_port o q with h | ⟨hi, -, k, -, h⟩
  · rw [h]; exact .refl _
  · rw [h]
    refine ⟨⟨⟨⟨fun p d e he => ⟨e, he, rfl, rfl⟩, fun e he => ?_⟩, .inr ?_⟩, rfl, rfl⟩, fun ha => ?_⟩
    · dsimp only at he
      split at he
      · exact mem_pickCopy he
      · exact ⟨e, he, fun _ h => h, id⟩
    · dsimp only
      split <;> rfl
    · simp only [Port.available, Bool.and_eq_true] at ha ⊢
      refine ⟨ha.1, ?_⟩
      split
      · rfl
      · exact ha.2

end Sys2Proof.Machine

namespace Sys2Proof.Machine

open Sys2Proof Sys2Proof.Safety

/-! ### Answers -/

/-- The answer, where it carries the command out, does so by an event of which `Q` holds. -/
def Answer.Leads (Q : Event → Prop) : Answer → Prop
  | .done c _ => Q c
  | .deny _ _ => True

@[simp] theorem Answer.leads_done (Q : Event → Prop) (c : Event) (d : RespData) : (Answer.done c d).Leads Q ↔ Q c := .rfl

@[simp] theorem Answer.leads_deny (Q : Event → Prop) (st : Status) (d : RespData) : (Answer.deny st d).Leads Q :=
  trivial

@[simp] theorem Answer.leads_badLength (Q : Event → Prop) : badLength.Leads Q := trivial

@[simp] theorem Answer.leads_badArg (Q : Event → Prop) (pos : Nat) : (badArg pos).Leads Q := trivial

@[simp] theorem Answer.leads_reads (Q : Event → Prop) (s : State) (d : RespData) :
    (s.reads d).Leads Q ↔ Q (Event.start s) := .rfl

@[simp] theorem Answer.leads_holderOnly (Q : Event → Prop) (s : State) (sp : SupPort) (a : Answer) :
    (s.holderOnly sp a).Leads Q ↔ (s.master.holder = some sp → a.Leads Q) := by
  unfold State.holderOnly
  split <;> simp [*]

@[simp] theorem Answer.leads_below (Q : Event → Prop) (n pos x : Nat) (f : Fin n → Answer) :
    (below n pos x f).Leads Q ↔ ∀ h : x < n, (f ⟨x, h⟩).Leads Q := by
  unfold below
  split <;> simp [*]

@[simp] theorem Answer.leads_named {α : Type} (Q : Event → Prop) (pos : Nat) (x : Option α) (f : α → Answer) :
    (named pos x f).Leads Q ↔ ∀ a, x = some a → (f a).Leads Q := by
  cases x <;> simp

@[simp] theorem Answer.leads_meterSelector (Q : Event → Prop) (sel input : Byte) (f : MeterSel → Answer) :
    (meterSelector sel input f).Leads Q ↔ ∀ m, meterSelArg sel input = .ok m → (f m).Leads Q := by
  unfold meterSelector
  split <;> simp [*]

/-- What is so of a state and is kept by every response is so after an answer whose event leads to it. -/
theorem State.answered_induct (I : State → Prop)
    (respond : ∀ t sp code st d, I t → I (State.respond t sp code st d)) {s : State} {a : Answer} (hs : I s)
    (ha : a.Leads fun c => I c.finish) (sp : SupPort) (code : Byte) : I (s.answered sp code a) := by
  cases a with
  | done c d => exact respond _ _ _ _ _ ha
  | deny st d => exact respond _ _ _ _ _ hs

/-! ### Commands under which every port is calm -/

/-- Port by port, the second state stands to the first as `Port.Calm` says. -/
def State.Calm (s t : State) : Prop := ∀ q, (s.port q).Calm (t.port q)

theorem State.Calm.refl (s : State) : s.Calm s := fun _ => .refl _

/-- A calm event closes calmly. -/
theorem Event.finish_of_calm {s : State} {c : Event} (h : (Event.start s).Ports Port.Calm c) : s.Calm c.finish :=
  fun q => (h q).trans (c.finish_calm q)

/-- A command whose event, where it is carried out, is calm, is answered calmly. -/
theorem State.answered_calm {s : State} {a : Answer} (ha : a.Leads ((Event.start s).Ports Port.Calm)) (sp : SupPort)
    (code : Byte) : s.Calm (s.answered sp code a) := by
  refine State.answered_induct s.Calm (fun t sp code st d h => h) (.refl s) ?_ sp code
  cases a with
  | done c d => exact Event.finish_of_calm ha
  | deny st d => trivial

/-- The outcome, where it is a next state, is one of which `I` holds. -/
def Ends (I : State → Prop) (r : Host.Outcome State Fault Refusal) : Prop := ∀ t, r = .next t → I t

theorem Ends.next {I : State → Prop} {t : State} (h : I t) : Ends I (.next t) := by
  rintro _ ⟨⟩
  exact h

/-- The outcome, where it is a next state, is one that `s` comes to calmly. -/
def Calmly (s : State) (r : Host.Outcome State Fault Refusal) : Prop := Ends s.Calm r

theorem Calmly.next {s t : State} (h : s.Calm t) : Calmly s (.next t) := Ends.next h

theorem Calmly.finish {s : State} {c : Event} (h : (Event.start s).Ports Port.Calm c) : Calmly s (.next c.finish) :=
  .next (Event.finish_of_calm h)

theorem Calmly.answered {s : State} {a : Answer} {sp : SupPort} {code : Byte}
    (ha : a.Leads ((Event.start s).Ports Port.Calm)) : Calmly s (.next (s.answered sp code a)) :=
  .next (State.answered_calm ha sp code)

/-- A command for the holder alone is calm where its answer leads to a calm event. -/
theorem Calmly.held {s : State} {a : Answer} {sp : SupPort} {code : Byte}
    (ha : a.Leads ((Event.start s).Ports Port.Calm)) : Calmly s (.next (s.answered sp code (s.holderOnly sp a))) :=
  .answered ((Answer.leads_holderOnly _ _ _ _).2 fun _ => ha)

/-! #### Events of the transmitters -/

/-- The restart flag of a head is no part of its class and payload (R132). -/
theorem Event.markHead_calm (c : Event) (o : PortId) : c.Ports Port.Calm (c.markHead o) := by
  unfold Event.markHead
  split
  · next i cls _ _ _ =>
    refine Event.modPort_calm ⟨⟨⟨⟨fun q d e he => ?_, fun e he => ⟨e, he, fun _ h => h, id⟩⟩, .inr rfl⟩, rfl, rfl⟩, id⟩
    rw [Port.putQueue_queue] at he
    split at he
    · next h =>
      obtain ⟨rfl, rfl⟩ := h
      cases hl : (c.port i).queue q d with
      | nil => rw [hl] at he; cases he
      | cons a l =>
        rw [hl] at he
        rcases List.mem_cons.1 he with rfl | he
        · exact ⟨a, .head _, rfl, rfl⟩
        · exact ⟨e, .tail _ he, rfl, rfl⟩
    · exact ⟨e, he, rfl, rfl⟩
  · exact c.calm_refl

theorem Port.toHeld_calm (x : Port) : x.Calm { x with tx := x.tx.toHeld } :=
  .of_tx x.tx.abortCell_onLink (by rintro ⟨⟩)

theorem execHold_calm (p : PortId) (s : State) : Calmly s (execHold p s) := by
  unfold execHold
  split
  · split
    · exact .finish (((Event.start s).markHead_calm p).calm_trans (Event.modPort_calm (Port.toHeld_calm _)))
    · exact .finish (Event.modPort_calm (Port.toHeld_calm _))
    all_goals exact .next (.refl s)
  · exact .next (.refl s)

theorem execRelease_calm (p : PortId) (s : State) : Calmly s (execRelease p s) := by
  unfold execRelease
  split
  · split
    · split
      · exact .finish (Event.modPort_calm (.of_tx (.inr rfl) (by rintro ⟨⟩)))
      · refine .finish (Event.Ports.calm_trans (Event.modPort_calm ?_) (Event.pickCheck_calm _ _))
        exact .of_tx (.inr rfl) (by rintro ⟨⟩)
    · refine .finish (((Event.modPort_calm ?_).calm_trans (Event.raise_calm _ _)).calm_trans (Event.pickCheck_calm _ _))
      exact .of_tx (.inr rfl) (by rintro ⟨⟩)
    all_goals exact .next (.refl s)
  · exact .next (.refl s)

/-- The end of a unit, with a change of the account, is calm (R53, R128). -/
theorem Port.endUnit_calm (x : Port) (a : Account) : x.Calm { x with account := a, tx := x.tx.endUnit .whole } :=
  (x.calm_account a).trans (.of_tx (.inl (by simp)) (by simp))

theorem execCreditWordCompletion_calm (o : PortId) (s : State) : Calmly s (execCreditWordCompletion o s) := by
  unfold execCreditWordCompletion
  split
  · exact .finish (Event.modPort_calm (Port.endUnit_calm _ _))
  · exact .next (.refl s)

theorem execResyncCompletion_calm (o : PortId) (s : State) : Calmly s (execResyncCompletion o s) := by
  unfold execResyncCompletion
  split
  · exact .finish (Event.modPort_calm (Port.endUnit_calm _ _))
  · exact .next (.refl s)

theorem execCongestionWordCompletion_calm (o : PortId) (s : State) : Calmly s (execCongestionWordCompletion o s) := by
  unfold execCongestionWordCompletion
  split
  · exact .finish (Event.modPort_calm (Port.endUnit_calm _ _))
  · exact .next (.refl s)

/-! #### Commands of the supervisors -/

/-- A change of an arbiter alone is calm. -/
theorem Event.modArbiter_calm (c : Event) (o : PortId) (f : Arbiter → Arbiter) : c.Ports Port.Calm (c.modArbiter o f) :=
  Event.modPort_calm (.of_eq rfl rfl rfl rfl (.inr rfl) id)

/-- ENABLE opens an output and closes none (R159). -/
theorem Event.enable_calm (c : Event) (p : PortId) : c.Ports Port.Calm (c.enable p).1 := by
  have enabled : c.Ports Port.Calm (c.modPort p fun x => { x with admin := .enabled }) :=
    Event.modPort_calm (.of_eq rfl rfl rfl rfl (.inr rfl) fun h => by
      simp only [Port.available, Bool.and_eq_true] at h ⊢
      exact ⟨⟨h.1.1, rfl⟩, h.2⟩)
  unfold Event.enable
  dsimp only
  split
  · exact c.calm_refl
  · dsimp only
    split
    · exact enabled.calm_trans (Event.modPort_calm (Port.issue_calm _))
    · exact enabled
  · dsimp only
    split
    · refine (enabled.calm_trans (Event.modPort_calm ?_)).calm_trans (Event.pickCheck_calm _ _)
      exact (Port.issue_calm _).trans (.of_tx (.inr rfl) id)
    · exact enabled.calm_trans (Event.pickCheck_calm _ _)

/-- The commands that leave every receiver and every guard, bring no entry and no cell, and close no output. -/
def calmCommand : Instr → Bool
  | .powerUpReset | .lockAcquired _ | .lockLost _ _ | .markerReceived _ _ | .controlErrorWord _
  | .cellReceptionComplete _ _ _ | .unitBoundary _ | .departure _ | .holdTimerExpiry _ | .portAdminDrain _ _
  | .portAdminDisable _ _ | .portReset _ _ | .linkParams _ _ | .guardSet _ _ | .guardResume _ _ | .fabricReset _ _ => false
  | _ => true

/-- The event leaves the ports of the state it starts from. -/
theorem Event.calm_of_ports {s : State} {c : Event} (h : c.ports = s.ports) : (Event.start s).Ports Port.Calm c := by
  intro q
  have : c.port q = s.port q := congrArg (Table.get · q) h
  rw [this]
  exact .refl _

/-- Under a calm command every port is calm. -/
theorem exec_calm (i : Instr) (s : State) (hi : calmCommand i = true) : Calmly s (exec i s) := by
  cases i
  case idleReceived | wordDropped | abortedCell | transactionAbandoned => exact .next (.refl s)
  case hold p => exact execHold_calm p s
  case release p => exact execRelease_calm p s
  case creditWordCompletion o => exact execCreditWordCompletion_calm o s
  case resyncCompletion o => exact execResyncCompletion_calm o s
  case congestionWordCompletion o => exact execCongestionWordCompletion_calm o s
  case mastershipTimerExpiry =>
    show Calmly s (execMastershipTimerExpiry s)
    unfold execMastershipTimerExpiry
    split
    · split <;> exact .finish (Event.calm_of_ports rfl)
    · exact .next (.refl s)
  case unknownCommand sp record =>
    show Calmly s (execUnknownCommand sp record s)
    unfold execUnknownCommand
    split
    · split
      · exact .answered trivial
      · split
        · exact .next (.refl s)
        · exact .answered trivial
    · exact .next (.refl s)
  case status | portRead | queueRead | replicationRead | creditRead | groupRead | groupProbe | arbiterRead |
      monitorRead | meterRead | countersRead | noticesRead =>
    refine .answered ?_
    split <;> simp [Event.calm_refl]
  case noticesClear =>
    refine .answered ?_
    split
    · trivial
    · split
      · trivial
      · split
        · trivial
        · split
          · trivial
          · exact Event.calm_of_ports rfl
  case noticeConfig =>
    refine .answered ?_
    split
    · simp only [Answer.leads_named, Answer.leads_done]
      exact fun _ _ _ _ => Event.calm_of_ports rfl
    · trivial
  case claim =>
    refine .answered ?_
    split
    · split
      · exact Event.calm_of_ports rfl
      · split <;> simp [Event.calm_refl]
    · trivial
  case relinquish | keepalive | groupRemove | groupRemoveId | groupFlush | meterStart | meterStop |
      meterCapture | timerPeriod =>
    refine .held ?_
    split
    · simp only [Answer.leads_below, Answer.leads_named, Answer.leads_done]
      intros
      exact Event.calm_of_ports rfl
    · trivial
  case groupInstall =>
    refine .held ?_
    split
    · simp only [Answer.leads_below, Answer.leads_named]
      intros
      split
      · trivial
      · exact Event.calm_of_ports (by simp)
    · trivial
  case meterSet =>
    refine .held ?_
    split
    · simp only [Answer.leads_below, Answer.leads_meterSelector, Answer.leads_named]
      intros
      split
      · trivial
      · exact Event.calm_of_ports rfl
    · trivial
  case portAdminEnable =>
    refine .held ?_
    split
    · simp [Event.enable_calm]
    · trivial
  case portResync =>
    refine .held ?_
    split
    · rw [Answer.leads_below]
      intro h
      split
      · exact Event.modPort_calm (Port.issue_calm _)
      · exact (Event.start s).calm_refl
    · trivial
  case weightStage | expressSet =>
    refine .held ?_
    split
    · simp [Event.modArbiter_calm]
    · trivial
  case weightStageRow =>
    refine .held ?_
    split
    · split
      · simp [Event.modArbiter_calm]
      · trivial
    · trivial
  case holdLimit =>
    refine .held ?_
    split
    · simp only [Answer.leads_below, Answer.leads_named, Answer.leads_done]
      exact fun _ _ _ => Event.modPort_calm (.of_tx (.inr rfl) id)
    · trivial
  case thresholds =>
    refine .held ?_
    split
    · simp only [Answer.leads_below, Answer.leads_done]
      exact fun _ => (Event.modPort_calm (.of_eq rfl rfl rfl rfl (.inr rfl) id)).calm_trans (Event.evaluate_calm _ _)
    · trivial
  case countersClear =>
    refine .held ?_
    split
    · simp only [Answer.leads_below, Answer.leads_done]
      exact fun _ => Event.modPort_calm (.of_eq rfl rfl rfl rfl (.inr rfl) id)
    · trivial
  all_goals cases hi

end Sys2Proof.Machine

namespace Sys2Proof.Machine

open Sys2Proof Sys2Proof.Safety

/-! ### What classification can do to the ports (R26) -/

theorem Event.charge_calm (c : Event) (p : PortId) (k : Key) : c.Ports Port.Calm (c.charge p k) :=
  Event.modPort_calm (Port.calm_account _ _)

theorem Event.discardCharged_calm (c : Event) (p : PortId) (key : Key) (k : Counter) :
    c.Ports Port.Calm (c.discardCharged p key k) := (c.count_calm p k).calm_trans (Event.free_calm _ _ _ _)

/-- The entry that a unicast cell makes (R28, R45). -/
def Header.cellEntry (h : Header) (payload : List Byte) : CellEntry :=
  { cls := h.cls, flow := h.flow, plane := h.plane, payload := payload, restart := false }

/-- The entry that a multicast cell makes (R29, R88). -/
def Header.copyEntry (h : Header) (payload : List Byte) (remaining : OutSet) : CopyEntry :=
  { group := h.group, cls := h.cls, remaining := remaining, inService := OutSet.empty, flow := h.flow
    plane := h.plane, payload := payload }

/-- A unicast cell has joined its queue; the rest of its acceptance is calm (R28, R30). -/
theorem Event.acceptCell_calm (c : Event) (p d : PortId) (h : Header) (payload : List Byte) :
    (c.modPort p fun x => x.putQueue d h.cls (x.queue d h.cls ++ [h.cellEntry payload])).Ports Port.Calm
      (c.acceptCell p d h payload) :=
  ((Event.count_calm _ p .accepted).calm_trans (Event.setWaiting_calm _ _ _)).calm_trans (Event.pickCheck_calm _ _)

/-- A multicast cell has joined the list of its input; the rest of its acceptance is calm (R29, R30). -/
theorem Event.acceptCopies_calm (c : Event) (p : PortId) (h : Header) (payload : List Byte) (r : OutSet) :
    (c.modPort p fun x => { x with copies := x.copies ++ [h.copyEntry payload r] }).Ports Port.Calm
      (c.acceptCopies p h payload r) :=
  ((Event.count_calm _ p .accepted).calm_trans
    (Event.foldl_calm _ (fun c o => c.setWaiting_calm o _) _ _)).calm_trans
    (Event.foldl_calm _ (fun c o => c.pickCheck_calm o) _ _)

/-- A cell whose header is in order has 80 bytes, of which 72 are its payload (R1, R31). -/
theorem readPayload_length {data : List Byte} {closed : CellEnd} (h : headerError data closed = false) :
    (readPayload data).length = 72 := by
  cases closed <;> simp_all [headerError, framingFails, readPayload]

/-- The group table replaced, every port is calm. -/
theorem Event.groups_calm (c : Event) (g : Table GroupSet 256) : c.Ports Port.Calm { c with groups := g } := c.calm_refl

/-- One entry joins input `p`, each output that it is for being available; before and after it all is calm. -/
def Event.Joins (p : PortId) (c r : Event) : Prop :=
  (∃ d o, ∃ e : CellEntry, c.Ports Port.Calm d ∧ (d.port o).available = true ∧ e.payload.length = 72 ∧
    (d.modPort p fun x => x.putQueue o e.cls (x.queue o e.cls ++ [e])).Ports Port.Calm r) ∨
  ∃ d, ∃ e : CopyEntry, c.Ports Port.Calm d ∧ (∀ o, e.remaining.has o = true → (d.port o).available = true) ∧
    CopyLaw e ∧ (d.modPort p fun x => { x with copies := x.copies ++ [e] }).Ports Port.Calm r

/-- Steps 8 and 9 of R26 discard the cell or have it join. -/
theorem Event.place_cases (c : Event) (p : PortId) (h : Header) {payload : List Byte} (hp : payload.length = 72) :
    c.Ports Port.Calm (c.place p h payload) ∨ c.Joins p (c.place p h payload) := by
  unfold Event.place
  split
  · dsimp only
    split
    · exact .inl (c.discardCharged_calm _ _ _)
    · have hl := c.groups_calm (c.groups.put (groupSet h.group.toNat) ((c.groups.get (groupSet h.group.toNat)).hitWay ‹_›))
      split
      · exact .inl (hl.calm_trans (Event.discardCharged_calm _ _ _ _))
      · next hne =>
        refine .inr (.inr ⟨_, h.copyEntry payload _, hl, fun o ho => ?_, ⟨hne, by simp [Header.copyEntry], hp⟩, Event.acceptCopies_calm _ p h payload _⟩)
        have hr : (OutSet.inter _ c.availableSet).has o = true := ho
        rw [OutSet.has_inter, State.availableSet, OutSet.has_ofPred, Bool.and_eq_true] at hr
        exact hr.2
  · split
    · dsimp only
      split
      · next ha => exact .inr (.inl ⟨c, _, h.cellEntry payload, c.calm_refl, ha, hp, c.acceptCell_calm p _ h payload⟩)
      · exact .inl (c.discardCharged_calm _ _ _)
    · exact .inl c.calm_refl

theorem Event.Joins.of_calm {p : PortId} {c d r : Event} (h : c.Ports Port.Calm d) (hj : d.Joins p r) : c.Joins p r := by
  rcases hj with ⟨d', o, e, hd, hr⟩ | ⟨d', e, hd, hr⟩
  · exact .inl ⟨d', o, e, h.calm_trans hd, hr⟩
  · exact .inr ⟨d', e, h.calm_trans hd, hr⟩

/-- What classification can do (R26): nothing to the entries, but perhaps a fault at the guard of `p`; or, the header being in
order, one entry joins input `p`. -/
theorem Event.classify_cases (c : Event) (p : PortId) (data : List Byte) (closed : CellEnd) :
    c.Ports Port.Calm (c.classify p data closed) ∨
    (∃ d k, c.Ports Port.Calm d ∧ (d.guardFault p k).Ports Port.Calm (c.classify p data closed)) ∨
    c.Joins p (c.classify p data closed) := by
  have fault (k : Counter) (f : FaultKind) : ∃ d g, c.Ports Port.Calm d ∧
      (d.guardFault p g).Ports Port.Calm (((c.discard p k).guardFault p f).modPort p Port.issue) :=
    ⟨_, f, c.count_calm p k, Event.modPort_calm (Port.issue_calm _)⟩
  unfold Event.classify
  dsimp only
  split
  · exact .inl (c.count_calm p _)
  split
  · exact .inl (c.count_calm p _)
  split
  · exact .inr (.inl (fault _ _))
  split
  · exact .inl (c.count_calm p _)
  split
  · exact .inr (.inl (fault _ _))
  split
  · exact .inr (.inl ⟨_, .overdraft, c.count_calm p _, Event.calm_refl _⟩)
  split
  · exact .inl ((c.charge_calm p _).calm_trans (Event.discardCharged_calm _ _ _ _))
  next hh _ _ _ _ =>
  have hc := c.charge_calm p (readHeader data).key
  rcases Event.place_cases (c.charge p (readHeader data).key) p (readHeader data)
    (readPayload_length (by simpa using hh)) with h | h
  · exact .inl (hc.calm_trans h)
  · exact .inr (.inr (h.of_calm hc))

/-! ### What fabric reset does to a port (R183) -/

theorem Port.issueIfLending_calm (x : Port) : x.Calm x.issueIfLending := by
  unfold Port.issueIfLending
  split
  · exact x.issue_calm
  · exact .refl x

theorem Event.fabricNotices_calm (c : Event) (p : PortId) (x : Port) : c.Ports Port.Calm (c.fabricNotices p x) :=
  ((c.raiseIf_calm _ _).calm_trans (Event.raiseIf_calm _ _ _)).calm_trans (Event.raiseIf_calm _ _ _)

/-- After fabric reset a port is as its own reset leaves it, but for what is calm: its flag and its credit issue. -/
theorem Event.fabricReset_port (c : Event) (q : PortId) : (c.port q).fabricReset.Calm (c.fabricReset.port q) := by
  have issued (e : Event) (he : (c.port q).fabricReset.Calm (e.port q)) :
      (c.port q).fabricReset.Calm (({ e with ports := e.ports.map Port.issueIfLending } : Event).port q) := by
    rw [show ({ e with ports := e.ports.map Port.issueIfLending } : Event).port q = (e.port q).issueIfLending from
      Table.get_map _ _ _]
    exact he.trans (Port.issueIfLending_calm _)
  have cleared (e : Event) (he : ({ c with
      ports := c.ports.map Port.fabricReset, meters := c.meters.map Meter.fabricReset } : Event).Ports Port.Calm e) :
      (c.port q).fabricReset.Calm (e.port q) := by
    have h := he q
    rwa [show ({ c with ports := c.ports.map Port.fabricReset, meters := c.meters.map Meter.fabricReset } : Event).port q =
      (c.port q).fabricReset from Table.get_map _ _ _] at h
  exact issued _ (cleared _ ((Event.foldl_calm _ (fun e p => e.fabricNotices_calm p _) _ _).calm_trans
    (Event.foldl_calm _ (fun e o => e.evaluate_calm o) _ _)))

end Sys2Proof.Machine

namespace Sys2Proof.Safety

open Sys2Proof Sys2Proof.Machine

/-! ### The laws of one receiver and one guard (R9 to R13, R37 to R43) -/

theorem ReceiverLaw.acquire {r : Receiver} (h : ReceiverLaw r) (hd : r.link = .down) : ReceiverLaw r.acquire := by
  obtain ⟨-, hzero, hbad, -, hr⟩ := h
  obtain ⟨hho, hg⟩ := hzero hd
  have hb := hbad (by simp [hd])
  unfold Receiver.acquire ReceiverLaw
  split <;> simp [hg, hb, hr]

theorem ReceiverLaw.inDown {r : Receiver} (h : ReceiverLaw r) : ReceiverLaw r.inDown := by
  obtain ⟨-, -, -, -, -, -, -, hr⟩ := h
  simp [ReceiverLaw, Receiver.inDown, hr]

theorem ReceiverLaw.holdoffMarker {r : Receiver} (h : ReceiverLaw r) (hl : r.link = .holdoff) :
    ReceiverLaw r.holdoffMarker := by
  obtain ⟨hk, -, hbad, -, -, hg, -, hr⟩ := h
  have hb := hbad (by simp [hl])
  have hlock : r.locked = true := hk.2 (by simp [hl])
  unfold Receiver.holdoffMarker ReceiverLaw
  split <;> simp [hl, hb, hlock, hg, hr]

/-- The good count in QUALIFYING is kept below 31 (R11). -/
theorem ReceiverLaw.qualifying {r : Receiver} (h : ReceiverLaw r) (hl : r.link = .qualifying) {n : Nat} (hn : n < 31) :
    ReceiverLaw { r with good := n } := by
  obtain ⟨hk, -, hbad, -, hho, -, hb, hr⟩ := h
  exact ⟨hk, by simp [hl], hbad, fun _ => hn, hho, hn.le, hb, hr⟩

theorem ReceiverLaw.enterUp {r : Receiver} (h : ReceiverLaw r) (hl : r.link = .qualifying) :
    ReceiverLaw { r with link := .up, good := r.good + 1, bad := 0 } := by
  obtain ⟨hk, -, -, hg, hho, -, -, hr⟩ := h
  have hlock : r.locked = true := hk.2 (by simp [hl])
  have := hg hl
  exact ⟨by simp [hlock], by simp, by simp, by simp, hho, this, by simp, hr⟩

/-- The bad count in UP is kept below 31 (R12). -/
theorem ReceiverLaw.up {r : Receiver} (h : ReceiverLaw r) (hl : r.link = .up) {n : Nat} (hn : n < 31) :
    ReceiverLaw { r with bad := n } := by
  obtain ⟨hk, hd, -, hq, hho, hg, -, hr⟩ := h
  exact ⟨hk, hd, by simp [hl], hq, hho, hg, hn, hr⟩

theorem ReceiverLaw.params {r : Receiver} (law : ReceiverLaw r) (h q f : Nat) :
    ReceiverLaw { r with h := clampTop 255 h, q := clampRange 1 31 q, f := clampRange 1 31 f } := by
  obtain ⟨hk, hd, hbad, hq, hho, hg, hb, -⟩ := law
  refine ⟨hk, hd, hbad, hq, hho, hg, hb, ?_⟩
  simp only [clampTop, clampRange]
  omega

theorem GuardLaw.fault {g : Guard} (h : GuardLaw g) (k : FaultKind) : GuardLaw (afterFault g k) := by
  obtain ⟨hs, hm, hc, hle⟩ := h
  unfold afterFault
  split
  · by_cases hf : g.mode = .freeze <;> simp [GuardLaw, hf]
  · next hf =>
    refine ⟨hs, hm, ?_, by simp⟩
    simp [hf]

theorem GuardLaw.cleared (g : Guard) : GuardLaw { g with state := .normal, first := none, count := 0 } := by
  simp [GuardLaw]

theorem GuardLaw.settle {g : Guard} (h : GuardLaw g) (m : GuardMode) (t : Bool) : GuardLaw (g.settle m t) := by
  obtain ⟨hs, -, hc, hle⟩ := h
  refine ⟨?_, ?_, hc, hle⟩
  · show (if m = .freeze ∧ g.first.isSome = true then GuardState.frozen else g.state) = .frozen → g.first.isSome = true
    split
    · next h => exact fun _ => h.2
    · exact hs
  · intro hm hf
    show (if m = .freeze ∧ g.first.isSome = true then GuardState.frozen else g.state) = .frozen
    exact if_pos ⟨hm, hf⟩

end Sys2Proof.Safety

namespace Sys2Proof.Machine

open Sys2Proof Sys2Proof.Safety

/-! ### Receivers and guards of a state -/

/-- The laws of the receiver and of the guard of a port. -/
def Port.Guarded (x : Port) : Prop := ReceiverLaw x.rx ∧ GuardLaw x.guard

/-- Every receiver and every guard keeps its laws. -/
def State.Guarded (s : State) : Prop := ∀ p, (s.port p).Guarded

theorem Port.Frame.guarded {x y : Port} (h : x.Frame y) (hx : x.Guarded) : y.Guarded := by
  unfold Port.Guarded
  rw [h.rx, h.guard]
  exact hx

theorem Event.Ports.guarded {c d : Event} (h : c.Ports Port.Frame d) (hc : c.Guarded) : d.Guarded :=
  fun q => (h q).guarded (hc q)

theorem State.Calm.guarded {s t : State} (h : s.Calm t) (hs : s.Guarded) : t.Guarded :=
  fun q => (h q).toFrame.guarded (hs q)

theorem Event.finish_guarded {c : Event} (hc : c.Guarded) : c.finish.Guarded :=
  fun q => (c.finish_calm q).toFrame.guarded (hc q)

theorem Event.modPort_guarded {c : Event} {p : PortId} {f : Port → Port} (hc : c.Guarded)
    (h : (f (c.port p)).Guarded) : (c.modPort p f).Guarded :=
  fun q => by
    have := Event.modPort_ports (R := fun x y => x.Guarded → y.Guarded) (fun _ => id) c p f (fun _ => h) q
    exact this (hc q)

theorem Event.guardFault_guarded {c : Event} (hc : c.Guarded) (p : PortId) (k : FaultKind) :
    (c.guardFault p k).Guarded := by
  show (c.guardFault p k).toState.Guarded
  rw [(c.guardFault_eq p k).1]
  exact Event.modPort_guarded (f := fun _ => { c.port p with guard := afterFault (c.port p).guard k }) hc
    ⟨(hc p).1, (hc p).2.fault k⟩

theorem Event.clearGuard_guarded {c : Event} (hc : c.Guarded) (p : PortId) : (c.clearGuard p).Guarded :=
  (Event.raiseIf_calm _ _ _).frame.guarded (Event.modPort_guarded hc ⟨(hc p).1, GuardLaw.cleared _⟩)

theorem Event.enterDown_guarded {c : Event} (hc : c.Guarded) (p : PortId) : (c.enterDown p).Guarded := by
  unfold Event.enterDown
  split
  · have hm : (c.modPort p Port.leaveUp).Guarded := Event.modPort_guarded hc ⟨(hc p).1.inDown, (hc p).2⟩
    exact (((Event.raise_calm _ _).calm_trans (Event.raiseIf_calm _ _ _)).frame.frame_trans
      (Event.outputUnavailable_frame _ p)).guarded hm
  · exact Event.modPort_guarded hc ⟨(hc p).1.inDown, (hc p).2⟩

theorem Event.resetPort_guarded {c : Event} (hc : c.Guarded) (p : PortId) : (c.resetPort p).Guarded :=
  have h := Event.clearGuard_guarded (Event.enterDown_guarded hc p) p
  Event.modPort_guarded h (h p)

/-- What follows the change of the port as its link enters UP is calm (R21). -/
theorem Event.enterUp_calm (c : Event) (p : PortId) (good : Nat) :
    (c.modPort p fun x => { x with rx := { x.rx with link := .up, good := good, bad := 0 }, tx := x.tx.linkUp }).Ports
      Port.Calm (c.enterUp p good) := by
  unfold Event.enterUp
  dsimp only
  split
  · exact ((Event.modPort_calm (Port.issue_calm _)).calm_trans (Event.raise_calm _ _)).calm_trans (Event.pickCheck_calm _ _)
  · exact (Event.raise_calm _ _).calm_trans (Event.pickCheck_calm _ _)

theorem Event.enterUp_guarded {c : Event} (hc : c.Guarded) (p : PortId) (hl : (c.port p).rx.link = .qualifying) :
    (c.enterUp p ((c.port p).rx.good + 1)).Guarded :=
  (c.enterUp_calm p _).frame.guarded (Event.modPort_guarded hc ⟨(hc p).1.enterUp hl, (hc p).2⟩)

theorem Event.classify_guarded {c : Event} (hc : c.Guarded) (p : PortId) (data : List Byte) (closed : CellEnd) :
    (c.classify p data closed).Guarded := by
  rcases c.classify_cases p data closed with h | ⟨d, k, hd, h⟩ | ⟨d, o, e, hd, -, -, h⟩ | ⟨d, e, hd, -, -, h⟩
  · exact h.frame.guarded hc
  · exact h.frame.guarded (Event.guardFault_guarded (hd.frame.guarded hc) p k)
  all_goals
    have hd := hd.frame.guarded hc
    exact h.frame.guarded (Event.modPort_guarded hd (hd p))

/-! ### The commands that are not calm -/

/-- Account and transmitter of `x` change alone, the state of the transmitter is kept, and a cell that is on the link then
is the one that waited (R127). -/
def State.Chooses (s : State) (o : PortId) (x y : Port) : Prop :=
  ∃ a t, y = { x with account := a, tx := t } ∧ t.state = x.tx.state ∧
    ∀ u, t.onLink = some u → isCell u = true → s.waitingCell o = some u

/-- A word that is taken is no cell (R127). -/
theorem State.chooses_takeWord {s : State} {o : PortId} {x y : Port} (h : x.takeWord s.congestionMap = some y) :
    s.Chooses o x y := by
  unfold Port.takeWord at h
  split at h
  · obtain ⟨e, -, rfl⟩ := Option.map_eq_some_iff.1 h
    exact ⟨_, _, rfl, rfl, by rintro u ⟨⟩ ⟨⟩⟩
  split at h
  · cases h
    exact ⟨_, _, rfl, rfl, by rintro u ⟨⟩ ⟨⟩⟩
  split at h
  · cases h
    exact ⟨_, _, rfl, rfl, by rintro u ⟨⟩ ⟨⟩⟩
  · cases h

theorem State.nextUnit_chooses (s : State) (o : PortId) (x : Port) : s.Chooses o x (s.nextUnit o x) := by
  unfold State.nextUnit
  dsimp only
  split
  · exact ⟨_, _, rfl, rfl, by rintro u ⟨⟩ ⟨⟩⟩
  split
  · next hw =>
    split at hw
    · exact State.chooses_takeWord hw
    · cases hw
  split
  · next hu => exact ⟨_, _, rfl, rfl, fun v hv _ => by cases hv; exact hu⟩
  split
  · exact State.chooses_takeWord ‹_›
  · exact ⟨_, _, rfl, rfl, by rintro u ⟨⟩ ⟨⟩⟩

theorem Port.depart_calm (o : PortId) (src : Source) (x : Port) : x.Calm (x.depart o src) := by
  cases src with
  | cell i cls =>
    refine ⟨⟨⟨⟨fun q d e he => ?_, fun e he => ⟨e, he, fun _ h => h, id⟩⟩, .inr rfl⟩, rfl, rfl⟩, id⟩
    simp only [Port.depart, Port.putQueue_queue] at he
    split at he
    · next h =>
      obtain ⟨rfl, rfl⟩ := h
      exact ⟨e, List.mem_of_mem_tail he, rfl, rfl⟩
    · exact ⟨e, he, rfl, rfl⟩
  | copy i => exact ⟨⟨⟨⟨fun q d e he => ⟨e, he, rfl, rfl⟩, fun e he => mem_departCopy he⟩, .inr rfl⟩, rfl, rfl⟩, id⟩

theorem Event.meters_calm (c : Event) (m : Table Meter 8) : c.Ports Port.Calm { c with meters := m } := c.calm_refl

theorem Event.meterDeparture_calm (c : Event) (o : PortId) (d : Departed) :
    c.Ports Port.Calm (c.meterDeparture o d) := by
  unfold Event.meterDeparture
  exact (c.meters_calm _).calm_trans (Event.foldl_calm _ (fun e _ => e.raiseIf_calm _ _) _ _)

/-- A completion is calm up to the drain check that ends it (R125). -/
theorem Event.complete_eq (c : Event) (o : PortId) (src : Source) :
    ∃ d l, c.Ports Port.Calm d ∧ c.complete o src = d.drainChecks 24 l := by
  refine ⟨_, _, ?_, rfl⟩
  refine Event.Ports.calm_trans ?_ (Event.meterDeparture_calm _ _ _)
  refine Event.Ports.calm_trans ?_ (Event.setWaiting_calm _ _ _)
  have left : c.Ports Port.Calm ((c.modPort o fun x => { x.count .departed 1 with
      arbiter := x.arbiter.refill
      tx := { x.tx.endUnit .whole with state := .idle, service := none } }).modPort src.input (Port.depart o src)) := by
    refine (Event.modPort_calm ?_).calm_trans (Event.modPort_calm (Port.depart_calm _ _ _))
    refine .of_eq rfl rfl rfl rfl (.inl (by simp)) fun h => ?_
    simp only [Port.available, Bool.and_eq_true] at h ⊢
    exact ⟨h.1, rfl⟩
  split
  · exact left.calm_trans (Event.free_calm _ _ _ _)
  · exact left

theorem Event.depart_frame (c : Event) (o : PortId) (src : Source) :
    c.Ports Port.Frame (c.depart o src) := by
  obtain ⟨d, l, hd, h⟩ := c.complete_eq o src
  unfold Event.depart
  rw [h]
  exact (hd.frame.frame_trans (d.drainChecks_frame 24 l)).frame_trans (Event.pickCheck_calm _ _).frame

theorem Ends.guarded {c : Event} (hc : c.Guarded) : Ends State.Guarded (.next c.finish) := .next (Event.finish_guarded hc)

/-- A command for the holder alone ends in what holds of the state and after each event that it may be. -/
theorem Ends.held {I : State → Prop} (respond : ∀ t sp code st d, I t → I (State.respond t sp code st d)) {s : State}
    {a : Answer} {sp : SupPort} {code : Byte} (hs : I s) (ha : a.Leads fun c => I c.finish) :
    Ends I (.next (s.answered sp code (s.holderOnly sp a))) :=
  .next (State.answered_induct I respond hs ((Answer.leads_holderOnly _ _ _ _).2 fun _ => ha) sp code)

theorem Port.powerUp_guarded : Port.powerUp.Guarded := by
  unfold Port.Guarded ReceiverLaw GuardLaw
  decide

theorem Event.drain_frame (c : Event) (p : PortId) : c.Ports Port.Frame (c.drain p) := by
  unfold Event.drain
  split
  · exact (Event.modPort_frame ⟨⟨.of_eq rfl rfl, .inr rfl⟩, rfl, rfl⟩).frame_trans (Event.drainChecks_frame _ _ _)
  all_goals exact c.calm_refl.frame

theorem Event.disable_frame (c : Event) (p : PortId) : c.Ports Port.Frame (c.disable p) := by
  unfold Event.disable
  split
  · exact (Event.modPort_frame ⟨⟨.of_eq rfl rfl, .inr rfl⟩, rfl, rfl⟩).frame_trans (Event.outputUnavailable_frame _ _)
  · exact (Event.modPort_frame ⟨⟨.of_eq rfl rfl, .inr rfl⟩, rfl, rfl⟩).frame_trans (Event.outputUnavailable_frame _ _)
  · exact c.calm_refl.frame

theorem execMarkerReceived_guarded (p : PortId) (w : ControlWord) {s : State} (hs : s.Guarded) :
    Ends State.Guarded (execMarkerReceived p w s) := by
  have hp := hs p
  have rx {r : Receiver} (hr : ReceiverLaw r) :
      Ends State.Guarded (.next ((Event.start s).modPort p fun x => { x with rx := r }).finish) :=
    .guarded (Event.modPort_guarded hs ⟨hr, hp.2⟩)
  unfold execMarkerReceived
  dsimp only
  split
  · split
    · exact .next hs
    · next hl => exact rx (hp.1.holdoffMarker hl)
    · next hl =>
      split
      · split
        · exact .guarded (Event.enterUp_guarded hs p hl)
        · refine rx (hp.1.qualifying hl ?_)
          obtain ⟨-, -, -, -, -, -, -, -, ⟨-, hq⟩, -⟩ := hp.1
          omega
      · exact rx (hp.1.qualifying hl (by decide))
    · next hl =>
      split
      · exact rx (hp.1.up hl (by decide))
      · split
        · exact .guarded (Event.enterDown_guarded hs p)
        · refine rx (hp.1.up hl ?_)
          obtain ⟨-, -, -, -, -, -, -, -, -, -, hf⟩ := hp.1
          omega
  · exact .next hs

/-- Every command keeps the laws of receivers and guards. -/
theorem exec_guarded (i : Instr) {s : State} (hs : s.Guarded) : Ends State.Guarded (exec i s) := by
  have calm (h : calmCommand i = true) : Ends State.Guarded (exec i s) := fun t ht => (exec_calm i s h t ht).guarded hs
  have frame {c : Event} (h : (Event.start s).Ports Port.Frame c) : c.finish.Guarded := Event.finish_guarded (h.guarded hs)
  cases i
  case powerUpReset =>
    refine .next fun p => ?_
    rw [show ({ State.reset with pending := s.pending } : State).port p = Port.powerUp from Table.get_fill _ _]
    exact Port.powerUp_guarded
  case lockAcquired p =>
    show Ends _ (execLockAcquired p s)
    unfold execLockAcquired
    split
    · next h => exact .guarded (Event.modPort_guarded hs ⟨(hs p).1.acquire h.2, (hs p).2⟩)
    · exact .next hs
  case lockLost p cut =>
    show Ends _ (execLockLost p cut s)
    unfold execLockLost
    split
    · dsimp only
      split
      · exact .guarded (Event.enterDown_guarded (((Event.start s).count_calm p _).frame.guarded hs) p)
      · exact .guarded (Event.enterDown_guarded hs p)
    · exact .next hs
  case markerReceived p w => exact execMarkerReceived_guarded p w hs
  case controlErrorWord p =>
    show Ends _ (execControlErrorWord p s)
    unfold execControlErrorWord
    split
    · exact .guarded (Event.guardFault_guarded (((Event.start s).count_calm p _).frame.guarded hs) p _)
    · exact .next hs
  case cellReceptionComplete p data closed =>
    show Ends _ (execCellReceptionComplete p data closed s)
    unfold execCellReceptionComplete
    split
    · exact .guarded (Event.classify_guarded (c := Event.start s) hs p data closed)
    · exact .next hs
  case unitBoundary o =>
    show Ends _ (execUnitBoundary o s)
    unfold execUnitBoundary
    split
    · refine .guarded (Event.modPort_guarded hs ?_)
      obtain ⟨a, t, h, -⟩ := s.nextUnit_chooses o { s.port o with tx := (s.port o).tx.endUnit .whole }
      show (s.nextUnit o { s.port o with tx := (s.port o).tx.endUnit .whole }).Guarded
      rw [h]
      exact hs o
    · exact .next hs
  case departure o =>
    show Ends _ (execDeparture o s)
    unfold execDeparture
    split
    · exact .next (frame (Event.depart_frame _ o _))
    · exact .next hs
  case holdTimerExpiry o =>
    show Ends _ (execHoldTimerExpiry o s)
    unfold execHoldTimerExpiry
    split
    · refine .next (frame (Event.Ports.frame_trans ?_ (Event.outputUnavailable_frame _ o)))
      exact (Event.modPort_frame ⟨⟨.of_eq rfl rfl, .inr rfl⟩, rfl, rfl⟩).frame_trans (Event.raise_calm _ _).frame
    · exact .next hs
  case portAdminDrain sp args =>
    refine .held (fun _ _ _ _ _ h => h) hs ?_
    split
    · simp only [Answer.leads_below, Answer.leads_named, Answer.leads_done]
      exact fun _ _ _ => frame (Event.drain_frame _ _)
    · trivial
  case portAdminDisable sp args =>
    refine .held (fun _ _ _ _ _ h => h) hs ?_
    split
    · simp only [Answer.leads_below, Answer.leads_named, Answer.leads_done]
      exact fun _ _ _ => frame (Event.disable_frame _ _)
    · trivial
  case portReset sp args =>
    refine .held (fun _ _ _ _ _ h => h) hs ?_
    split
    · simp only [Answer.leads_below, Answer.leads_done]
      exact fun _ => Event.finish_guarded (Event.resetPort_guarded (c := Event.start s) hs _)
    · trivial
  case linkParams sp args =>
    refine .held (fun _ _ _ _ _ h => h) hs ?_
    split
    · simp only [Answer.leads_below, Answer.leads_done]
      exact fun _ => Event.finish_guarded (Event.modPort_guarded hs ⟨(hs _).1.params _ _ _, (hs _).2⟩)
    · trivial
  case guardSet sp args =>
    refine .held (fun _ _ _ _ _ h => h) hs ?_
    split
    · simp only [Answer.leads_below, Answer.leads_named, Answer.leads_done]
      exact fun _ _ _ _ _ => Event.finish_guarded ((Event.raiseIf_calm _ _ _).frame.guarded
        (Event.modPort_guarded hs ⟨(hs _).1, (hs _).2.settle _ _⟩))
    · trivial
  case guardResume sp args =>
    refine .held (fun _ _ _ _ _ h => h) hs ?_
    split
    · simp only [Answer.leads_below, Answer.leads_done]
      exact fun _ => Event.finish_guarded (Event.clearGuard_guarded (c := Event.start s) hs _)
    · trivial
  case fabricReset sp args =>
    refine .held (fun _ _ _ _ _ h => h) hs ?_
    split
    · rw [Answer.leads_done]
      exact Event.finish_guarded fun q =>
        ((Event.start s).fabricReset_port q).toFrame.guarded ⟨(hs q).1, GuardLaw.cleared _⟩
    · trivial
  all_goals exact calm rfl

/-- What every command keeps, and what does not speak of the waiting commands, every step keeps. -/
theorem step_keeps {I : State → Prop} (hI : ∀ s l, I s → I { s with pending := l })
    (h : ∀ i s, I s → Ends I (exec i s)) {s t : State} (hs : I s) (ht : step s = .next t) : I t := by
  unfold step at ht
  split at ht
  · cases ht
    exact hs
  · exact h _ _ (hI s _ hs) t ht

end Sys2Proof.Machine

namespace Sys2Proof.Proofs

open Sys2Proof Sys2Proof.Machine

/-- Settles O51: a calm command leaves every receiver and guard, and each other command's change of them keeps their laws. -/
theorem stepKeepsReceiversAndGuards : Obligations.StepKeepsReceiversAndGuards := by
  intro s t hs ht
  exact step_keeps (I := State.Guarded) (fun _ _ h => h) (fun i _ h => exec_guarded i h) hs ht

end Sys2Proof.Proofs

/-! # Entries and the outputs they wait for (O55) -/

namespace Sys2Proof.Safety

open Sys2Proof Sys2Proof.Machine

/-- An entry of a queue has a payload of 72 bytes, whatever its class (R44). -/
theorem QueueLaw.payload {x : Port} (h : QueueLaw x) {o : PortId} {c : Machine.Class} {e : CellEntry}
    (he : e ∈ x.queue o c) : e.payload.length = 72 := by
  cases c
  · exact ((h o).1 e he).2
  · exact ((h o).2 e he).2

end Sys2Proof.Safety

namespace Sys2Proof.Machine

open Sys2Proof Sys2Proof.Safety

/-! ### Ports that gain no entry, and ports that hold none -/

/-- As `Port.Carries`, and an output that was available is available still. -/
structure Port.Mild (x y : Port) : Prop extends x.Carries y where
  available : x.available = true → y.available = true

theorem Port.Calm.mild {x y : Port} (h : x.Calm y) : x.Mild y := ⟨h.toCarries, h.available⟩

/-- A change of the receiver and of the guard that keeps an open output open is mild. -/
theorem Port.Mild.of_eq {x y : Port} (hq : y.queues = x.queues) (hc : y.copies = x.copies)
    (hl : y.tx.onLink = none ∨ y.tx.onLink = x.tx.onLink) (ha : x.available = true → y.available = true) : x.Mild y :=
  ⟨⟨.of_eq hq hc, hl⟩, ha⟩

theorem Event.modPort_mild {c : Event} {p : PortId} {f : Port → Port} (h : (c.port p).Mild (f (c.port p))) :
    c.Ports Port.Mild (c.modPort p f) := Event.modPort_ports (fun x => (Port.Calm.refl x).mild) c p f h

/-- Nothing of this input waits for output `o`. -/
def Port.ClearOf (o : PortId) (x : Port) : Prop :=
  x.queue o .bulk = [] ∧ x.queue o .express = [] ∧ ∀ e ∈ x.copies, e.remaining.has o = false

/-- An input that gains no entry stays clear of an output. -/
theorem Port.Entries.clearOf {x y : Port} (h : x.Entries y) {o : PortId} (hx : x.ClearOf o) : y.ClearOf o := by
  obtain ⟨hb, he, hc⟩ := hx
  have empty {c : Class} (hxc : x.queue o c = []) : y.queue o c = [] := by
    refine List.eq_nil_iff_forall_not_mem.2 fun e hm => ?_
    obtain ⟨a, ha, -⟩ := h.queue o c e hm
    simp [hxc] at ha
  refine ⟨empty hb, empty he, fun e hm => ?_⟩
  obtain ⟨a, ha, hr, -⟩ := h.copies e hm
  exact Bool.eq_false_iff.2 fun ho => Bool.eq_false_iff.1 (hc a ha) (hr o ho)

/-- The input holds no entry. -/
def Port.Empty (x : Port) : Prop := (∀ o c, x.queue o c = []) ∧ x.copies = []

theorem Port.Entries.empty {x y : Port} (h : x.Entries y) (hx : x.Empty) : y.Empty := by
  refine ⟨fun o c => List.eq_nil_iff_forall_not_mem.2 fun e hm => ?_, List.eq_nil_iff_forall_not_mem.2 fun e hm => ?_⟩
  · obtain ⟨a, ha, -⟩ := h.queue o c e hm
    simp [hx.1 o c] at ha
  · obtain ⟨a, ha, -⟩ := h.copies e hm
    simp [hx.2] at ha

theorem Port.queue_of_fill {x : Port} (h : x.queues = .fill []) (o : PortId) (c : Class) : x.queue o c = [] := by
  unfold Port.queue
  rw [h, Table.get_fill]

/-! ### Laws of entries

A law of entries is one that the few things keep that commands do to entries; then every command keeps it. -/

/-- From `c` to `d` no port has gained an entry, and no output but perhaps `p` has become unavailable. -/
def Event.Closing (p : PortId) (c d : Event) : Prop :=
  ∀ q, (c.port q).Carries (d.port q) ∧ (q ≠ p → (c.port q).available = true → (d.port q).available = true)

theorem Event.modPort_closing {c : Event} {p : PortId} {f : Port → Port} (h : (c.port p).Carries (f (c.port p))) :
    c.Closing p (c.modPort p f) := by
  intro q
  rw [Event.modPort_port]
  split
  · next e => exact ⟨e ▸ h, fun hq => absurd e hq⟩
  · exact ⟨(Port.Calm.refl _).toCarries, fun _ => id⟩

theorem Event.Closing.calm {p : PortId} {c d e : Event} (h : c.Closing p d) (h' : d.Ports Port.Calm e) :
    c.Closing p e := fun q => ⟨(h q).1.trans (h' q).toCarries, fun hq ha => (h' q).available ((h q).2 hq ha)⟩

/-- What a law of entries is kept by: mild changes; an output that becomes unavailable and is flushed; an entry that joins;
the choice at a unit boundary; and resets that leave no entry. -/
structure EntryLaw (I : State → Prop) : Prop where
  mild : ∀ {s t : State}, I s → (∀ q, (s.port q).Mild (t.port q)) → I t
  closing : ∀ {p c d}, I c.toState → Event.Closing p c d → I (d.closeOutput p).toState
  joins : ∀ {p c d}, I c.toState → Event.Joins p c d → I d.toState
  boundary : ∀ {s o}, I s → I ((Event.start s).modPort o fun x => s.nextUnit o { x with tx := x.tx.endUnit .whole }).toState
  cleared : ∀ {s t : State}, I s → (∀ q, (s.port q).Carries (t.port q) ∧ (t.port q).Empty) → I t

section

variable {I : State → Prop} (hI : EntryLaw I)
include hI

theorem EntryLaw.calm {c d : Event} (hc : I c.toState) (h : c.Ports Port.Calm d) : I d.toState :=
  hI.mild hc fun q => (h q).mild

theorem EntryLaw.modPort {c : Event} {p : PortId} {f : Port → Port} (hc : I c.toState)
    (h : (c.port p).Mild (f (c.port p))) : I (c.modPort p f).toState := hI.mild hc (Event.modPort_mild h)

theorem EntryLaw.finish {c : Event} (hc : I c.toState) : I c.finish :=
  hI.mild hc fun q => (c.finish_calm q).mild

theorem EntryLaw.ends {c : Event} (hc : I c.toState) : Ends I (.next c.finish) := .next (hI.finish hc)

theorem EntryLaw.respond (t : State) (sp : SupPort) (code : Byte) (st : Status) (d : RespData) (ht : I t) :
    I (t.respond sp code st d) := hI.mild ht fun q => (Port.Calm.refl (t.port q)).mild

theorem EntryLaw.drainChecks {c : Event} (hc : I c.toState) (n : Nat) (l : List PortId) : I (c.drainChecks n l).toState :=
  Event.drainChecks_induct (fun d => I d.toState) (fun d i hd _ => hI.closing hd (show d.Closing i (d.endDrain i) from
    (Event.modPort_closing ⟨.of_eq rfl rfl, .inr rfl⟩).calm (Event.raise_calm _ _))) n l c hc

theorem EntryLaw.unavailable {p : PortId} {c d : Event} (hc : I c.toState) (h : c.Closing p d) :
    I (d.outputUnavailable p).toState := hI.drainChecks (hI.closing hc h) _ _

theorem EntryLaw.enterDown {c : Event} (hc : I c.toState) (p : PortId) : I (c.enterDown p).toState := by
  unfold Event.enterDown
  split
  · refine hI.unavailable hc (((Event.modPort_closing ⟨.of_eq rfl rfl, .inl ?_⟩).calm (Event.raise_calm _ _)).calm
      (Event.raiseIf_calm _ _ _))
    show (c.port p).tx.cutOff.onLink = none
    rw [Transmitter.cutOff_eq]
    split
    · rfl
    · simp
  · next hu =>
    refine hI.modPort hc (.of_eq rfl rfl (.inr rfl) fun h => ?_)
    simp only [Port.isUp, Port.available, Bool.and_eq_true] at hu h
    exact absurd h.1.1 hu

theorem EntryLaw.clearGuard {c : Event} (hc : I c.toState) (p : PortId) : I (c.clearGuard p).toState :=
  hI.calm (hI.modPort hc (.of_eq rfl rfl (.inr rfl) id)) (Event.raiseIf_calm _ _ _)

theorem EntryLaw.guardFault {c : Event} (hc : I c.toState) (p : PortId) (k : FaultKind) :
    I (c.guardFault p k).toState := by
  rw [(c.guardFault_eq p k).1]
  exact hI.mild hc (Event.modPort_mild (f := fun _ => { c.port p with guard := afterFault (c.port p).guard k })
    (.of_eq rfl rfl (.inr rfl) id))

theorem EntryLaw.classify {c : Event} (hc : I c.toState) (p : PortId) (data : List Byte) (closed : CellEnd) :
    I (c.classify p data closed).toState := by
  rcases c.classify_cases p data closed with h | ⟨d, k, hd, h⟩ | h
  · exact hI.calm hc h
  · exact hI.calm (hI.guardFault (hI.calm hc hd) p k) h
  · exact hI.joins hc h

theorem EntryLaw.depart {c : Event} (hc : I c.toState) (o : PortId) (src : Source) : I (c.depart o src).toState := by
  obtain ⟨d, l, hd, h⟩ := c.complete_eq o src
  unfold Event.depart
  rw [h]
  exact hI.calm (hI.drainChecks (hI.calm hc hd) 24 l) (Event.pickCheck_calm _ _)

theorem EntryLaw.drain {c : Event} (hc : I c.toState) (p : PortId) : I (c.drain p).toState := by
  unfold Event.drain
  split
  · refine hI.drainChecks (hI.modPort hc (.of_eq rfl rfl (.inr rfl) fun h => ?_)) _ _
    simp only [Port.available, Bool.and_eq_true] at h ⊢
    exact ⟨⟨h.1.1, rfl⟩, h.2⟩
  all_goals exact hc

theorem EntryLaw.disable {c : Event} (hc : I c.toState) (p : PortId) : I (c.disable p).toState := by
  unfold Event.disable
  split
  · exact hI.unavailable hc (Event.modPort_closing ⟨.of_eq rfl rfl, .inr rfl⟩)
  · exact hI.unavailable hc (Event.modPort_closing ⟨.of_eq rfl rfl, .inr rfl⟩)
  · exact hc

/-- A receiver that does not leave UP changes mildly. -/
theorem EntryLaw.rx {s : State} (hs : I s) {p : PortId} {r : Receiver} (h : (s.port p).rx.link = .up → r.link = .up) :
    Ends I (.next ((Event.start s).modPort p fun x => { x with rx := r }).finish) := by
  refine hI.ends (hI.modPort (c := Event.start s) hs (.of_eq rfl rfl (.inr rfl) fun ha => ?_))
  simp only [Port.available, Bool.and_eq_true, beq_iff_eq] at ha ⊢
  exact ⟨⟨h ha.1.1, ha.1.2⟩, ha.2⟩

theorem EntryLaw.markerReceived {s : State} (hs : I s) (p : PortId) (w : ControlWord) :
    Ends I (execMarkerReceived p w s) := by
  unfold execMarkerReceived
  dsimp only
  split
  · split
    · exact .next hs
    · next hl => exact hI.rx hs (by simp [hl])
    · next hl =>
      split
      · split
        · refine hI.ends (hI.calm (hI.modPort (c := Event.start s) hs ?_) ((Event.start s).enterUp_calm p _))
          exact .of_eq rfl rfl (.inr rfl) (by simp [Port.available, hl])
        · exact hI.rx hs (by simp [hl])
      · exact hI.rx hs (by simp [hl])
    · next hl =>
      split
      · exact hI.rx hs fun _ => hl
      · split
        · exact hI.ends (hI.enterDown (c := Event.start s) hs p)
        · exact hI.rx hs fun _ => hl
  · exact .next hs

/-- Every command keeps a law of entries. -/
theorem EntryLaw.exec (i : Instr) {s : State} (hs : I s) : Ends I (exec i s) := by
  have calm (h : calmCommand i = true) : Ends I (Machine.exec i s) := fun t ht =>
    hI.mild hs fun q => (exec_calm i s h t ht q).mild
  cases i
  case powerUpReset =>
    refine .next (hI.cleared hs fun q => ?_)
    rw [show ({ State.reset with pending := s.pending } : State).port q = Port.powerUp from Table.get_fill _ _]
    have he : Port.powerUp.Empty := ⟨Port.queue_of_fill rfl, rfl⟩
    exact ⟨⟨⟨fun o c e h => by simp [he.1] at h, fun e h => by simp [he.2] at h⟩, .inl rfl⟩, he⟩
  case lockAcquired p =>
    show Ends _ (execLockAcquired p s)
    unfold execLockAcquired
    split
    · next h =>
      refine hI.ends (hI.modPort (c := Event.start s) hs (.of_eq rfl rfl (.inr rfl) ?_))
      simp [Port.available, h.2]
    · exact .next hs
  case lockLost p cut =>
    show Ends _ (execLockLost p cut s)
    unfold execLockLost
    split
    · dsimp only
      split
      · exact hI.ends (hI.enterDown (hI.calm (c := Event.start s) hs ((Event.start s).count_calm p _)) p)
      · exact hI.ends (hI.enterDown (c := Event.start s) hs p)
    · exact .next hs
  case markerReceived p w => exact hI.markerReceived hs p w
  case controlErrorWord p =>
    show Ends _ (execControlErrorWord p s)
    unfold execControlErrorWord
    split
    · exact hI.ends (hI.guardFault (hI.calm (c := Event.start s) hs ((Event.start s).count_calm p _)) p _)
    · exact .next hs
  case cellReceptionComplete p data closed =>
    show Ends _ (execCellReceptionComplete p data closed s)
    unfold execCellReceptionComplete
    split
    · exact hI.ends (hI.classify (c := Event.start s) hs p data closed)
    · exact .next hs
  case unitBoundary o =>
    show Ends _ (execUnitBoundary o s)
    unfold execUnitBoundary
    split
    · exact hI.ends (hI.boundary hs)
    · exact .next hs
  case departure o =>
    show Ends _ (execDeparture o s)
    unfold execDeparture
    split
    · exact hI.ends (hI.depart (c := Event.start s) hs o _)
    · exact .next hs
  case holdTimerExpiry o =>
    show Ends _ (execHoldTimerExpiry o s)
    unfold execHoldTimerExpiry
    split
    · exact hI.ends (hI.unavailable (c := Event.start s) hs
        ((Event.modPort_closing ⟨.of_eq rfl rfl, .inr rfl⟩).calm (Event.raise_calm _ _)))
    · exact .next hs
  case portAdminDrain sp args =>
    refine .held hI.respond hs ?_
    split
    · simp only [Answer.leads_below, Answer.leads_named, Answer.leads_done]
      exact fun _ _ _ => hI.finish (hI.drain (c := Event.start s) hs _)
    · trivial
  case portAdminDisable sp args =>
    refine .held hI.respond hs ?_
    split
    · simp only [Answer.leads_below, Answer.leads_named, Answer.leads_done]
      exact fun _ _ _ => hI.finish (hI.disable (c := Event.start s) hs _)
    · trivial
  case portReset sp args =>
    refine .held hI.respond hs ?_
    split
    · simp only [Answer.leads_below, Answer.leads_done]
      exact fun _ => hI.finish (hI.modPort (hI.clearGuard (hI.enterDown (c := Event.start s) hs _) _)
        (.of_eq rfl rfl (.inr rfl) id))
    · trivial
  case linkParams sp args =>
    refine .held hI.respond hs ?_
    split
    · simp only [Answer.leads_below, Answer.leads_done]
      exact fun _ => hI.finish (hI.modPort (c := Event.start s) hs (.of_eq rfl rfl (.inr rfl) id))
    · trivial
  case guardSet sp args =>
    refine .held hI.respond hs ?_
    split
    · simp only [Answer.leads_below, Answer.leads_named, Answer.leads_done]
      exact fun _ _ _ _ _ => hI.finish (hI.calm (hI.modPort (c := Event.start s) hs (.of_eq rfl rfl (.inr rfl) id))
        (Event.raiseIf_calm _ _ _))
    · trivial
  case guardResume sp args =>
    refine .held hI.respond hs ?_
    split
    · simp only [Answer.leads_below, Answer.leads_done]
      exact fun _ => hI.finish (hI.clearGuard (c := Event.start s) hs _)
    · trivial
  case fabricReset sp args =>
    refine .held hI.respond hs ?_
    split
    · rw [Answer.leads_done]
      refine hI.finish (hI.cleared hs fun q => ?_)
      have hc := (Event.start s).fabricReset_port q
      have he : (s.port q).fabricReset.Empty := ⟨Port.queue_of_fill rfl, rfl⟩
      exact ⟨.trans ⟨⟨fun o c e h => by simp [he.1] at h, fun e h => by simp [he.2] at h⟩,
        Transmitter.abortCell_onLink _⟩ hc.toCarries, hc.toEntries.empty he⟩
    · trivial
  all_goals exact calm rfl

end

/-! ### Entries in order (R1, R44, R87, R89, R124) -/

/-- Every entry of the port is in order, and so is a cell on its link. -/
def Port.Stored (x : Port) : Prop := QueueLaw x ∧ (∀ e ∈ x.copies, CopyLaw e) ∧ CellOnLinkLaw x.tx

theorem Port.Entries.queueLaw {x y : Port} (h : x.Entries y) (hx : QueueLaw x) : QueueLaw y := by
  intro o
  constructor <;> intro e he
  · obtain ⟨a, ha, hc, hp⟩ := h.queue o .bulk e he
    exact hc ▸ hp ▸ (hx o).1 a ha
  · obtain ⟨a, ha, hc, hp⟩ := h.queue o .express e he
    exact hc ▸ hp ▸ (hx o).2 a ha

theorem Port.Entries.copyLaw {x y : Port} (h : x.Entries y) (hx : ∀ e ∈ x.copies, CopyLaw e) : ∀ e ∈ y.copies, CopyLaw e := by
  intro e he
  obtain ⟨a, ha, -, hl⟩ := h.copies e he
  exact hl (hx a ha)

theorem Port.Carries.stored {x y : Port} (h : x.Carries y) (hx : x.Stored) : y.Stored := by
  refine ⟨h.queueLaw hx.1, h.copyLaw hx.2.1, fun header payload hl => ?_⟩
  rcases h.onLink with hn | hn <;> rw [hn] at hl
  · cases hl
  · exact hx.2.2 header payload hl

/-- A rewritten header has eight bytes (R4). -/
theorem unicastHeader_length (i : PortId) (e : CellEntry) : (unicastHeader i e).length = 8 := by
  simp [unicastHeader, bytes16]

theorem copyHeader_length (i : PortId) (e : CopyEntry) : (copyHeader i e).length = 8 := by
  simp [copyHeader, bytes16]

/-- The unit that carries a cell in service is a cell of 8 header bytes and 72 payload bytes (R4, R124). -/
theorem State.cellUnit_lengths {s : State} (hs : ∀ q, (s.port q).Stored) {o : PortId} {src : Source} {u : LinkUnit}
    (hu : s.cellUnit o src = some u) {header payload : List Byte} (he : u = .cell header payload) :
    header.length = 8 ∧ payload.length = 72 := by
  subst he
  cases src with
  | cell i cls =>
    obtain ⟨e, hm, hc⟩ := Option.map_eq_some_iff.1 hu
    obtain ⟨rfl, rfl⟩ := LinkUnit.cell.inj hc
    exact ⟨unicastHeader_length i e, (hs i).1.payload (List.mem_of_head? hm)⟩
  | copy i =>
    obtain ⟨e, hm, hc⟩ := Option.map_eq_some_iff.1 hu
    obtain ⟨rfl, rfl⟩ := LinkUnit.cell.inj hc
    obtain ⟨-, -, hp⟩ := (hs i).2.1 e (List.mem_of_find?_eq_some hm)
    exact ⟨copyHeader_length i e, hp⟩

/-- Every entry of every port is in order, and so is every cell on a link. -/
def State.Stored (s : State) : Prop := ∀ p, (s.port p).Stored

/-- The unit of a cell that waits for its start is that of the cell in service (R124, R127). -/
theorem State.waitingCell_eq {s : State} {o : PortId} {u : LinkUnit} (h : s.waitingCell o = some u) :
    ∃ src, s.cellUnit o src = some u := by
  unfold State.waitingCell at h
  split at h
  · split at h
    · cases h
    · exact ⟨_, h⟩
  · cases h

theorem Port.Stored.putQueue {x : Port} (hx : x.Stored) (o : PortId) {e : CellEntry} (hp : e.payload.length = 72) :
    (x.putQueue o e.cls (x.queue o e.cls ++ [e])).Stored := by
  refine ⟨?_, hx.2⟩
  have mem {q : PortId} {c : Class} {a : CellEntry} (ha : a ∈ (x.putQueue o e.cls (x.queue o e.cls ++ [e])).queue q c) :
      a ∈ x.queue q c ∨ a = e ∧ c = e.cls := by
    rw [Port.putQueue_queue] at ha
    split at ha
    · next h =>
      obtain ⟨rfl, rfl⟩ := h
      rcases List.mem_append.1 ha with ha | ha
      · exact .inl ha
      · exact .inr ⟨List.mem_singleton.1 ha, rfl⟩
    · exact .inl ha
  intro q
  constructor <;> intro a ha <;> rcases mem ha with ha | ⟨rfl, hc⟩
  · exact (hx.1 q).1 a ha
  · exact ⟨hc.symm, hp⟩
  · exact (hx.1 q).2 a ha
  · exact ⟨hc.symm, hp⟩

theorem Event.modPort_stored {c : Event} {p : PortId} {f : Port → Port} (hc : c.toState.Stored)
    (h : (f (c.port p)).Stored) : (c.modPort p f).toState.Stored :=
  fun q => Event.modPort_ports (R := fun x y => x.Stored → y.Stored) (fun _ => id) c p f (fun _ => h) q (hc q)

theorem Event.Ports.stored {c d : Event} (h : c.Ports Port.Calm d) (hc : c.toState.Stored) : d.toState.Stored :=
  fun q => (h q).toCarries.stored (hc q)

/-- That the entries are in order is a law of entries. -/
theorem State.stored_entryLaw : EntryLaw State.Stored where
  mild hs h q := (h q).toCarries.stored (hs q)
  closing {_ _ d} hc h := (d.closeOutput_calm _).stored fun q => (h q).1.stored (hc q)
  joins {p c r} hc h := by
    rcases h with ⟨d, o, e, hd, -, hp, hr⟩ | ⟨d, e, hd, -, hl, hr⟩
    · have hs := hd.stored hc
      exact hr.stored (Event.modPort_stored hs ((hs p).putQueue o hp))
    · have hs := hd.stored hc
      refine hr.stored (Event.modPort_stored hs ⟨(hs p).1, fun a ha => ?_, (hs p).2.2⟩)
      rcases List.mem_append.1 ha with ha | ha
      · exact (hs p).2.1 a ha
      · exact List.mem_singleton.1 ha ▸ hl
  boundary {s o} hs := by
    refine Event.modPort_stored (c := Event.start s) hs ?_
    obtain ⟨a, t, h, -, hcell⟩ := s.nextUnit_chooses o { s.port o with tx := (s.port o).tx.endUnit .whole }
    show (s.nextUnit o { s.port o with tx := (s.port o).tx.endUnit .whole }).Stored
    rw [h]
    refine ⟨(hs o).1, (hs o).2.1, fun header payload hl => ?_⟩
    obtain ⟨src, hu⟩ := State.waitingCell_eq (hcell _ hl rfl)
    exact State.cellUnit_lengths hs hu rfl
  cleared hs h q := (h q).1.stored (hs q)

/-! ### Nothing waits for an unavailable output (R62, R95) -/

theorem Port.Empty.clearOf {x : Port} (h : x.Empty) (o : PortId) : x.ClearOf o :=
  ⟨h.1 o .bulk, h.1 o .express, fun e he => by simp [h.2] at he⟩

/-- What joins a queue toward another output does not wait for this one. -/
theorem Port.ClearOf.putQueue {x : Port} {o q : PortId} (h : x.ClearOf q) (hne : q ≠ o) (c : Machine.Class)
    (l : List CellEntry) : (x.putQueue o c l).ClearOf q := by
  obtain ⟨hb, he, hc⟩ := h
  have keep (d : Machine.Class) : (x.putQueue o c l).queue q d = x.queue q d := by
    rw [Port.putQueue_queue, if_neg fun e => hne e.1]
  exact ⟨(keep .bulk).trans hb, (keep .express).trans he, hc⟩

/-- An output that is unavailable after mild changes was so before them. -/
theorem Port.Mild.unavailable {x y : Port} (h : x.Mild y) (hy : y.available = false) : x.available = false :=
  Bool.eq_false_iff.2 fun hx => Bool.eq_false_iff.1 hy (h.available hx)

theorem unavailableLaw_mild {s t : State} (hs : UnavailableLaw s) (h : ∀ q, (s.port q).Mild (t.port q)) :
    UnavailableLaw t := fun o ho i => (h i).toEntries.clearOf (hs o ((h o).unavailable ho) i)

/-- An entry that joins for available outputs waits for no output that is not (R28, R29). -/
theorem Event.unavailableLaw_modPort {c : Event} {p : PortId} {f : Port → Port} (hc : UnavailableLaw c.toState)
    (ha : (f (c.port p)).available = (c.port p).available)
    (h : ∀ o, (c.port o).available = false → (c.port p).ClearOf o → (f (c.port p)).ClearOf o) :
    UnavailableLaw (c.modPort p f).toState := by
  intro o ho
  have hoc : (c.port o).available = false := by
    change ((c.modPort p f).port o).available = false at ho
    rw [Event.modPort_port] at ho
    split at ho
    · next e => rwa [e, ← ha, ← e]
    · exact ho
  intro i
  show ((c.modPort p f).port i).ClearOf o
  rw [Event.modPort_port]
  split
  · next e => exact e ▸ h o hoc (hc o hoc p)
  · exact hc o hoc i

theorem unavailableLaw_entryLaw : EntryLaw UnavailableLaw where
  mild := unavailableLaw_mild
  closing {p c d} hc h := by
    intro o ho i
    by_cases hop : o = p
    · subst hop
      obtain ⟨hq, hl⟩ := d.closeOutput_clears o i
      exact ⟨hq .bulk, hq .express, hl⟩
    · have hd : (d.port o).available = false := (d.closeOutput_calm p o).mild.unavailable ho
      have hco : (c.port o).available = false :=
        Bool.eq_false_iff.2 fun hx => Bool.eq_false_iff.1 hd ((h o).2 hop hx)
      exact (d.closeOutput_calm p i).toEntries.clearOf ((h i).1.toEntries.clearOf (hc o hco i))
  joins {p c r} hc h := by
    rcases h with ⟨d, o, e, hd, ha, -, hr⟩ | ⟨d, e, hd, ha, -, hr⟩
    · have hdl : UnavailableLaw d.toState := unavailableLaw_mild hc fun q => (hd q).mild
      refine unavailableLaw_mild (Event.unavailableLaw_modPort hdl rfl fun q hq hcl => ?_) fun q => (hr q).mild
      have hne : q ≠ o := by rintro rfl; simp [ha] at hq
      exact hcl.putQueue hne _ _
    · have hdl : UnavailableLaw d.toState := unavailableLaw_mild hc fun q => (hd q).mild
      refine unavailableLaw_mild (Event.unavailableLaw_modPort hdl rfl fun q hq hcl => ?_) fun q => (hr q).mild
      refine ⟨hcl.1, hcl.2.1, fun a hm => ?_⟩
      rcases List.mem_append.1 hm with hm | hm
      · exact hcl.2.2 a hm
      · rw [List.mem_singleton.1 hm]
        exact Bool.eq_false_iff.2 fun hx => Bool.eq_false_iff.1 hq (ha q hx)
  boundary {s o} hs := by
    obtain ⟨a, t, h, ht, -⟩ := s.nextUnit_chooses o { s.port o with tx := (s.port o).tx.endUnit .whole }
    refine Event.unavailableLaw_modPort (c := Event.start s) hs ?_ fun q _ hcl => ?_
    · show (s.nextUnit o { s.port o with tx := (s.port o).tx.endUnit .whole }).available = (s.port o).available
      rw [h]
      simp [Port.available, ht]
    · show (s.nextUnit o { s.port o with tx := (s.port o).tx.endUnit .whole }).ClearOf q
      rw [h]
      exact hcl
  cleared hs h := fun o _ i => (h i).2.clearOf o

end Sys2Proof.Machine

namespace Sys2Proof.Proofs

open Sys2Proof Sys2Proof.Machine Sys2Proof.Safety

/-- Settles O55: both laws are laws of entries, which every command keeps. -/
theorem stepKeepsEntries : Obligations.StepKeepsEntries :=
  ⟨fun _ _ hs ht => step_keeps (I := State.Stored) (fun _ _ h => h) (fun i _ h => State.stored_entryLaw.exec i h) hs ht,
    fun _ _ hs ht => step_keeps (I := UnavailableLaw) (fun _ _ h => h) (fun i _ h => unavailableLaw_entryLaw.exec i h) hs ht⟩

end Sys2Proof.Proofs

/-! # What the part sends (O5) -/

namespace Sys2Proof.Machine

open Sys2Proof Sys2Proof.Safety

/-! ### Bytes of wider numbers -/

/-- A concatenation as a number: the upper part above the lower. -/
theorem toNat_append_eq {m n : Nat} (a : BitVec m) (b : BitVec n) : (a ++ b).toNat = a.toNat * 2 ^ n + b.toNat := by
  rw [BitVec.toNat_append, ← Nat.shiftLeft_add_eq_or_of_lt b.isLt, Nat.shiftLeft_eq]

theorem toNat_extract8 {n : Nat} (x : BitVec n) (i : Nat) : (x.extractLsb' i 8).toNat = x.toNat / 2 ^ i % 256 := by
  rw [BitVec.extractLsb'_toNat, Nat.shiftRight_eq_div_pow]

/-- The two bytes of a 16-bit number make it up (R169). -/
theorem bytes16_append (x : BitVec 16) : (x.extractLsb' 8 8 ++ x.extractLsb' 0 8 : BitVec 16) = x := by
  apply BitVec.eq_of_toNat_eq
  simp only [toNat_append_eq, toNat_extract8]
  have := x.isLt
  omega

/-- The three bytes of a 24-bit map make it up (R7). -/
theorem bytes24_append (x : BitVec 24) :
    (x.extractLsb' 16 8 ++ x.extractLsb' 8 8 ++ x.extractLsb' 0 8 : BitVec 24) = x := by
  apply BitVec.eq_of_toNat_eq
  simp only [toNat_append_eq, toNat_extract8]
  have := x.isLt
  omega

/-- The six bytes of a 48-bit number make it up (R6). -/
theorem bytes48_append (x : BitVec 48) :
    (x.extractLsb' 40 8 ++ x.extractLsb' 32 8 ++ x.extractLsb' 24 8 ++ x.extractLsb' 16 8 ++ x.extractLsb' 8 8 ++
      x.extractLsb' 0 8 : BitVec 48) = x := by
  apply BitVec.eq_of_toNat_eq
  simp only [toNat_append_eq, toNat_extract8]
  have := x.isLt
  omega

/-- A group id stands in the low four bits of byte 2 and in byte 3 (R3, R4). -/
theorem group_of_bytes (g : BitVec 12) :
    (((0#4 ++ g : BitVec 16).extractLsb' 8 8).extractLsb' 0 4 ++ (0#4 ++ g : BitVec 16).extractLsb' 0 8 : BitVec 12) = g := by
  apply BitVec.eq_of_toNat_eq
  rw [toNat_append_eq, toNat_extract8, BitVec.extractLsb'_toNat, toNat_extract8, toNat_append_eq]
  have := g.isLt
  simp
  omega

/-! ### Headers (R3, R4) -/

/-- Byte 0 of a rewritten header: the kind, the class bit, epoch 0, and bits 1..0 clear (R3, R4). -/
theorem headerByte_fields (kind : BitVec 2) (c : Class) :
    let b : Byte := kind ++ c.bit ++ 0#5
    b.extractLsb' 6 2 = kind ∧ Class.ofBit (b.getLsbD 5) = c ∧ b.extractLsb' 2 3 = 0#3 ∧ b.toNat % 4 = 0 := by
  revert kind
  cases c <;> decide

theorem readHeader_unicastHeader (i : PortId) (e : CellEntry) :
    readHeader (unicastHeader i e) =
      { kind := 0#2, cls := e.cls, epoch := 0#3, port := portByte i, group := 0#12, flow := e.flow, plane := e.plane } := by
  obtain ⟨hk, hc, he, -⟩ := headerByte_fields 0#2 e.cls
  rw [Header.mk.injEq]
  have hg : ((0#8).extractLsb' 0 4 ++ 0#8 : BitVec 12) = 0#12 := by decide
  exact ⟨hk, hc, he, rfl, hg, bytes16_append e.flow, rfl⟩

/-- Byte 2 of the header of a unicast cell is clear (R4). -/
theorem unicastHeader_byte2 (i : PortId) (e : CellEntry) : (byteAt (unicastHeader i e) 2).toNat / 16 = 0 := by
  rw [show byteAt (unicastHeader i e) 2 = 0#8 from rfl]
  decide

theorem readHeader_copyHeader (i : PortId) (e : CopyEntry) :
    readHeader (copyHeader i e) =
      { kind := 1#2, cls := e.cls, epoch := 0#3, port := portByte i, group := e.group, flow := e.flow, plane := e.plane } := by
  obtain ⟨hk, hc, he, -⟩ := headerByte_fields 1#2 e.cls
  rw [Header.mk.injEq]
  exact ⟨hk, hc, he, rfl, group_of_bytes e.group, bytes16_append e.flow, rfl⟩

/-- Bits 7..4 of byte 2 of a copy's header are clear (R4). -/
theorem copyHeader_byte2 (i : PortId) (e : CopyEntry) : (byteAt (copyHeader i e) 2).toNat / 16 = 0 := by
  have h : byteAt (copyHeader i e) 2 = (0#4 ++ e.group : BitVec 16).extractLsb' 8 8 := rfl
  rw [h, toNat_extract8, toNat_append_eq]
  have := e.group.isLt
  simp
  omega

/-! ### Words (R5 to R8) -/

theorem word_length_check {u : LinkUnit} (h : isCell u = false) : u.bytes.length = 8 ∧ checkPasses u.bytes = true := by
  cases u
  case cell => cases h
  all_goals exact ⟨by simp [LinkUnit.bytes, markerPattern, creditBytes], checkPasses_withCheck _⟩

/-- An entry of a CREDIT word as a number: key in the upper six bits, count in the lower six; key 63 with count 0 where there
is none (R6). -/
theorem creditSlot_toNat {entries : List (Key × Nat)} (h : ∀ x ∈ entries, x.2 ≤ 32) (n : Nat) :
    (creditSlot entries n).toNat = match entries[n]? with
      | some x => x.1.val * 64 + x.2
      | none => 63 * 64 := by
  unfold creditSlot
  cases he : entries[n]? with
  | none => rfl
  | some x =>
    have hx := h x (List.mem_of_getElem? he)
    have := x.1.isLt
    simp only [creditEntry, toNat_append_eq, BitVec.toNat_ofNat]
    omega

/-- The entry in each place of the 48-bit number that a CREDIT word carries (R6). -/
theorem creditSlots_place (a b c d : BitVec 12) :
    (a ++ b ++ c ++ d : BitVec 48).toNat / 2 ^ 36 % 4096 = a.toNat ∧
    (a ++ b ++ c ++ d : BitVec 48).toNat / 2 ^ 24 % 4096 = b.toNat ∧
    (a ++ b ++ c ++ d : BitVec 48).toNat / 2 ^ 12 % 4096 = c.toNat ∧
    (a ++ b ++ c ++ d : BitVec 48).toNat / 2 ^ 0 % 4096 = d.toNat := by
  have := a.isLt
  have := b.isLt
  have := c.isLt
  have := d.isLt
  simp only [toNat_append_eq]
  omega

/-- The type byte of a word that carries an epoch (R5). -/
theorem epochByte (ty : BitVec 5) (e : Epoch) : (ty ++ e : Byte) = BitVec.ofNat 8 (ty.toNat * 8 + e.toNat) := by
  apply BitVec.eq_of_toNat_eq
  rw [toNat_append_eq, BitVec.toNat_ofNat]
  have := ty.isLt
  have := e.isLt
  omega

theorem creditWord_places (epoch : Epoch) {entries : List (Key × Nat)} (h : ∀ x ∈ entries, x.2 ≤ 32) :
    ∃ b1 b2 b3 b4 b5 b6 check : Byte,
      (LinkUnit.credit epoch entries).bytes = [BitVec.ofNat 8 (0x20 + epoch.toNat), b1, b2, b3, b4, b5, b6, check] ∧
      ∀ n, n < 4 →
        (b1 ++ b2 ++ b3 ++ b4 ++ b5 ++ b6 : BitVec 48).toNat / 2 ^ (36 - 12 * n) % 4096 =
          match entries[n]? with
          | some x => x.1.val * 64 + x.2
          | none => 63 * 64 := by
  refine ⟨_, _, _, _, _, _, _, congrArg₂ List.cons (epochByte 4#5 epoch) rfl, fun n hn => ?_⟩
  rw [bytes48_append]
  obtain ⟨h0, h1, h2, h3⟩ := creditSlots_place (creditSlot entries 0) (creditSlot entries 1) (creditSlot entries 2)
    (creditSlot entries 3)
  match n with
  | 0 => exact h0.trans (creditSlot_toNat h 0)
  | 1 => exact h1.trans (creditSlot_toNat h 1)
  | 2 => exact h2.trans (creditSlot_toNat h 2)
  | 3 => exact h3.trans (creditSlot_toNat h 3)

/-- The symbols of a word: its start symbol and its data bytes, all of them or, cut off, the first ones (R1, R123). -/
theorem word_symbols {u : LinkUnit} (h : isCell u = false) (sent : Nat) :
    u.symbols .whole sent = .startOfWord :: u.bytes.map .data ∧
      u.symbols .short sent = .startOfWord :: (u.bytes.take sent).map .data := by
  cases u
  case cell => cases h
  all_goals simp [LinkUnit.symbols, LinkUnit.startSymbol, LinkUnit.closingSymbols]

end Sys2Proof.Machine

namespace Sys2Proof.Proofs

open Sys2Proof Sys2Proof.Machine Sys2Proof.Safety

/-- Settles O5: headers, words and symbols, each by its own layout. -/
theorem sentUnitsCarryTheirContents : Obligations.SentUnitsCarryTheirContents := by
  refine ⟨⟨fun u => word_length_check, fun i e => ?_, fun i e => ?_⟩, ⟨?_, fun map => ?_, fun epoch => ?_, by decide, by decide⟩,
    fun header payload sent => ⟨rfl, rfl⟩, fun u sent hu => word_symbols hu sent⟩
  · exact ⟨unicastHeader_length i e, checkPasses_withCheck _, readHeader_unicastHeader i e,
      (headerByte_fields 0#2 e.cls).2.2.2, unicastHeader_byte2 i e⟩
  · exact ⟨(headerByte_fields 1#2 e.cls).2.2.2, copyHeader_byte2 i e, copyHeader_length i e, checkPasses_withCheck _,
      readHeader_copyHeader i e⟩
  · exact fun epoch entries _ h => creditWord_places epoch h
  · exact ⟨_, _, _, _, rfl, bytes24_append map⟩
  · exact ⟨_, congrArg₂ List.cons (epochByte 5#5 epoch) rfl⟩

end Sys2Proof.Proofs

/-! # What the receiver makes of it (O6) -/

namespace Sys2Proof.Machine

open Sys2Proof Sys2Proof.Safety

/-! ### Control words (R5, R8) -/

/-- The eight bytes of a word, byte 0 first. -/
theorem controlWord_toList (w : ControlWord) :
    w.toList = [w.get 0, w.get 1, w.get 2, w.get 3, w.get 4, w.get 5, w.get 6, w.get 7] := by
  obtain ⟨⟨l⟩, hl⟩ := w
  match l, hl with
  | [_, _, _, _, _, _, _, _], _ => rfl

/-- The bytes of a word make it up (R5). -/
theorem wordOfBytes_get (w : ControlWord) :
    wordOfBytes [w.get 7, w.get 6, w.get 5, w.get 4, w.get 3, w.get 2, w.get 1, w.get 0] = w := by
  apply Table.ext_get
  intro i
  rw [wordOfBytes, Table.get_ofFn]
  match i with
  | 0 | 1 | 2 | 3 | 4 | 5 | 6 | 7 => rfl

/-- R8: when a MARKER is good. -/
theorem goodMarker_iff (w : ControlWord) :
    goodMarker w = true ↔
      byteSum w.toList % 256 = 255 ∧ w.get 1 = 0x5C#8 ∧ w.get 2 = 0x3E#8 ∧ w.get 3 = 0x91#8 ∧ w.get 4 = 0xA7#8 ∧
        w.get 5 = 0x0F#8 ∧ w.get 6 = 0x62#8 := by
  have h : (w.toList.drop 1).take 6 = [w.get 1, w.get 2, w.get 3, w.get 4, w.get 5, w.get 6] := by
    rw [controlWord_toList]
    rfl
  rw [goodMarker, h, markerPattern]
  simp [checkPasses]

theorem classifyWord_marker {w : ControlWord} (h : wordType w = 1#5) : classifyWord w = .marker := if_pos h

/-- A word other than a MARKER whose check fails is a CONTROL_ERROR word (R5). -/
theorem classifyWord_of_check_fails {w : ControlWord} (h : wordType w ≠ 1#5) (hc : checkPasses w.toList = false) :
    classifyWord w = .controlError := by
  simp [classifyWord, h, hc]

theorem classifyWord_of_check_passes {w : ControlWord} (hc : checkPasses w.toList = true) :
    (wordType w = 0#5 → classifyWord w = .idle) ∧ (wordType w = 2#5 → classifyWord w = .hold) ∧
      (wordType w = 3#5 → classifyWord w = .release) := by
  refine ⟨fun h => ?_, fun h => ?_, fun h => ?_⟩ <;> simp [classifyWord, h, hc]

/-- A word of a type that the part alone sends, or that is unknown, is a CONTROL_ERROR word, whatever its check (R5). -/
theorem classifyWord_of_type_ge {w : ControlWord} (h : 4 ≤ (wordType w).toNat) : classifyWord w = .controlError := by
  have hne {n : BitVec 5} (hn : n.toNat < 4) : wordType w ≠ n := by
    rintro rfl
    omega
  simp [classifyWord, hne (n := 0#5) (by decide), hne (n := 1#5) (by decide), hne (n := 2#5) (by decide),
    hne (n := 3#5) (by decide)]

/-! ### Framing (R1) -/

/-- Data bytes in a cell join it, the last first. -/
theorem frameSymbols_cellData (bytes data : List Byte) (rest : List Symbol) :
    frameSymbols (.inCell bytes) (data.map .data ++ rest) = frameSymbols (.inCell (data.reverse ++ bytes)) rest := by
  induction data generalizing bytes with
  | nil => rfl
  | cons b data ih =>
    rw [List.reverse_cons, List.append_assoc, List.singleton_append, ← ih (b :: bytes)]
    rfl

/-- Data bytes in a word join it, the last first, as long as it has fewer than eight. -/
theorem frameSymbols_wordData (bytes data : List Byte) (rest : List Symbol) (h : bytes.length + data.length < 8) :
    frameSymbols (.inWord bytes) (data.map .data ++ rest) = frameSymbols (.inWord (data.reverse ++ bytes)) rest := by
  induction data generalizing bytes with
  | nil => rfl
  | cons b data ih =>
    simp only [List.length_cons] at h
    have h7 : bytes.length ≠ 7 := by omega
    rw [List.reverse_cons, List.append_assoc, List.singleton_append,
      ← ih (b :: bytes) (by simp only [List.length_cons]; omega)]
    simp [frameSymbols, frameSymbol, h7]

/-- A cell of any data bytes, closed by each of the symbols that close one. -/
theorem frameSymbols_cell (data : List Byte) :
    frameSymbols .outside (.startOfCell :: (data.map .data ++ [.endOfCell])) = (.outside, [.cell data .endOfCell]) ∧
    frameSymbols .outside (.startOfCell :: (data.map .data ++ [.abortMark])) = (.outside, [.aborted]) ∧
    frameSymbols .outside (.startOfCell :: (data.map .data ++ [.startOfCell])) =
      (.inCell [], [.cell data .startSymbol]) ∧
    frameSymbols .outside (.startOfCell :: (data.map .data ++ [.startOfWord])) =
      (.inWord [], [.cell data .startSymbol]) := by
  refine ⟨?_, ?_, ?_, ?_⟩ <;>
    simp [frameSymbols, frameSymbol, frameSymbols_cellData, interrupted]

/-- A word cut short before its eighth byte by each of the symbols that cut one short. -/
theorem frameSymbols_unfinished {data : List Byte} (h : data.length < 8) :
    frameSymbols .outside (.startOfWord :: (data.map .data ++ [.startOfCell])) = (.inCell [], [.unfinishedWord]) ∧
    frameSymbols .outside (.startOfWord :: (data.map .data ++ [.startOfWord])) = (.inWord [], [.unfinishedWord]) ∧
    frameSymbols .outside (.startOfWord :: (data.map .data ++ [.endOfCell])) = (.outside, [.unfinishedWord]) ∧
    frameSymbols .outside (.startOfWord :: (data.map .data ++ [.abortMark])) = (.outside, [.unfinishedWord]) := by
  have hd : ([] : List Byte).length + data.length < 8 := by simpa using h
  refine ⟨?_, ?_, ?_, ?_⟩ <;>
    simp [frameSymbols, frameSymbol, frameSymbols_wordData [] data _ hd, interrupted]

theorem frameSymbols_word (w : ControlWord) :
    frameSymbols .outside (.startOfWord :: w.toList.map .data) = (.outside, [.word w]) := by
  rw [controlWord_toList]
  have h := wordOfBytes_get w
  simp [frameSymbols, frameSymbol, interrupted, h]

end Sys2Proof.Machine

namespace Sys2Proof.Proofs

open Sys2Proof Sys2Proof.Machine Sys2Proof.Safety

/-- Settles O6: words by their type and check, and the symbols of a unit by induction on its data bytes. -/
theorem receiverFramesAndClassesUnits : Obligations.ReceiverFramesAndClassesUnits := by
  refine ⟨fun p w => ?_, ⟨frameSymbols_cell, fun data => frameSymbols_unfinished, frameSymbols_word, rfl⟩,
    fun header payload sent => ⟨(frameSymbols_cell _).1, (frameSymbols_cell _).2.1⟩, fun u sent hu => ⟨fun w hw => ?_,
    fun hs => ?_⟩⟩
  · refine ⟨fun h => ?_, fun h hc => ?_, fun h hc => ?_, fun h hc => ?_, fun h hc => ?_, fun h => ?_, goodMarker_iff w⟩ <;>
      unfold decodeWord
    · rw [classifyWord_marker h]
    · rw [classifyWord_of_check_fails h hc]
    · rw [(classifyWord_of_check_passes hc).1 h]
    · rw [(classifyWord_of_check_passes hc).2.1 h]
    · rw [(classifyWord_of_check_passes hc).2.2 h]
    · rw [classifyWord_of_type_ge h]
  · rw [(word_symbols hu sent).1, ← hw]
    exact frameSymbols_word w
  · rw [(word_symbols hu sent).2]
    have hl : (u.bytes.take sent).length < 8 := by
      rw [List.length_take, (word_length_check hu).1]
      omega
    obtain ⟨hcell, hword, -⟩ := frameSymbols_unfinished hl
    exact ⟨hcell, hword⟩

end Sys2Proof.Proofs

/-! # Resets, written-out records, and the link events that end no UP (O3, O8, O9, O10, O12, O14, O40) -/

namespace Sys2Proof.Machine

open Sys2Proof Sys2Proof.Safety

/-! ### Response records (R170) -/

/-- The two bytes of a 16-bit length (R170). -/
theorem bytes16_toNat {n : Nat} (h : n < 65536) :
    ((BitVec.ofNat 16 n).extractLsb' 8 8).toNat * 256 + ((BitVec.ofNat 16 n).extractLsb' 0 8).toNat = n := by
  rw [toNat_extract8, toNat_extract8, BitVec.toNat_ofNat]
  omega

theorem masterByte_toNat (holder : Option SupPort) (health : Health) :
    (masterByte holder health).toNat =
      (if holder = some .sp0 then 1 else if holder = some .sp1 then 2 else 0) + if health = .alerted then 4 else 0 := by
  rcases holder with _ | sp
  · cases health <;> decide
  · cases sp <;> cases health <;> decide

/-- The sum of a response record (R170). -/
theorem Response.record_sum (r : Response) : byteSum r.record % 256 = 255 := by
  have h : checkPasses r.record = true := checkPasses_withCheck _
  simpa [checkPasses] using h

theorem Status.byte_mem (st : Status) :
    (st, st.byte) ∈ [(Status.ok, (0#8 : Byte)), (.notMaster, 1#8), (.alreadyHeld, 2#8), (.duplicate, 3#8),
      (.badArgument, 4#8), (.meterRunning, 5#8), (.unknownCommand, 6#8)] := by
  cases st <;> decide

/-- Four bytes at a time, the place of one number among others laid out one after the other (R190). -/
theorem bytes32_place (l : List Nat) (k : Nat) (h : k < l.length) :
    ((l.map bytes32).flatten.drop (4 * k)).take 4 = bytes32 l[k] := by
  induction l generalizing k with
  | nil => simp at h
  | cons n l ih =>
    cases k with
    | zero => simp [bytes32]
    | succ k =>
      have hd : 4 * (k + 1) = (bytes32 n).length + 4 * k := by simp only [bytes32, List.length_cons, List.length_nil]; omega
      rw [List.map_cons, List.flatten_cons, hd, List.drop_length_add_append, List.getElem_cons_succ]
      exact ih k (by simpa using h)

/-- The four bytes of a number below 2 ^ 32, most significant first (R190). -/
theorem bytes32_toNat {n : Nat} (h : n < 4294967296) :
    (BitVec.ofNat 8 (n / 16777216)).toNat * 16777216 + (BitVec.ofNat 8 (n / 65536)).toNat * 65536 +
      (BitVec.ofNat 8 (n / 256)).toNat * 256 + (BitVec.ofNat 8 n).toNat = n := by
  simp only [BitVec.toNat_ofNat]
  omega

theorem counters_bytes (c : Table Nat 15) (k : Fin 15) :
    ((RespData.counters c).bytes.drop (4 * k.val)).take 4 = bytes32 (c.get k) :=
  (bytes32_place c.toList k.val (by simp)).trans (congrArg bytes32 (Vector.getElem_toList _))

/-- A number below 256 in two bytes, most significant first (R187). -/
theorem bytes16_of_lt {n : Nat} (h : n < 256) : bytes16 (BitVec.ofNat 16 n) = [0#8, BitVec.ofNat 8 n] := by
  have hi : (BitVec.ofNat 16 n).extractLsb' 8 8 = 0#8 := by
    apply BitVec.eq_of_toNat_eq
    rw [toNat_extract8, BitVec.toNat_ofNat, BitVec.toNat_ofNat]
    omega
  have lo : (BitVec.ofNat 16 n).extractLsb' 0 8 = BitVec.ofNat 8 n := by
    apply BitVec.eq_of_toNat_eq
    rw [toNat_extract8, BitVec.toNat_ofNat, BitVec.toNat_ofNat]
    omega
  rw [bytes16, hi, lo]

/-! ### Events that change one port and raise what they raise -/

/-- An event that changes one port alone ends with it replaced. -/
theorem Event.finish_modPort (s : State) (p : PortId) (f : Port → Port) :
    ((Event.start s).modPort p f).finish = withPort s p (f (s.port p)) :=
  Event.finish_of_quiet _ rfl rfl

/-- A fault at the guard of `p`, counted, ends with the port replaced and the notices of the fault taken (R38). -/
theorem Event.finish_countedFault (s : State) (p : PortId) (k : Counter) (f : FaultKind) (g : Port → Port) :
    ((((Event.start s).count p k).guardFault p f).modPort p g).finish =
      notify (withPort s p (g { s.port p with
        counters := countedUp (s.port p) k, guard := afterFault (s.port p).guard f })) (faultNotices p (s.port p).guard) := by
  obtain ⟨hstate, hfreed, hraised⟩ := ((Event.start s).count p k).guardFault_eq p f
  have hp : ((Event.start s).count p k).port p = (s.port p).count k 1 := Event.modPort_port_self _ _ _
  rw [Event.finish_of_freed_nil _ (by rw [Event.modPort_freed, hfreed]; rfl), Event.modPort_raised, hraised rfl,
    Event.modPort_toState, hstate, hp]
  simp only [State.port, withPort, Table.get_put_self]
  simp only [Event.count, Event.modPort, Table.put_put]
  rfl

end Sys2Proof.Machine

namespace Sys2Proof.Proofs

open Sys2Proof Sys2Proof.Machine Sys2Proof.Safety

/-- Settles O3: every block is that of `State.reset`. -/
theorem powerUpResetStartsEveryBlock : Obligations.PowerUpResetStartsEveryBlock := by
  intro s
  refine ⟨{ State.reset with pending := s.pending }, rfl, rfl, fun p => ?_, fun g w => ?_, fun g => ?_, fun m => ?_, rfl,
    fun sp => by cases sp <;> rfl⟩
  · have hp : ({ State.reset with pending := s.pending } : State).port p = Port.powerUp := Table.get_fill _ _
    rw [hp]
    refine ⟨rfl, rfl, rfl, fun k => ⟨Table.get_fill _ _, Table.get_fill _ _⟩, rfl, rfl, rfl, Port.queue_of_fill rfl, rfl,
      fun i => ⟨Table.get_fill _ _, Table.get_fill _ _, Table.get_fill _ _, Table.get_fill _ _⟩, rfl, rfl, rfl, rfl, rfl, rfl,
      rfl, rfl, rfl, rfl, rfl, rfl, rfl, rfl, rfl, rfl, rfl, fun k => Table.get_fill _ _⟩
  · simp [State.reset, GroupSet.powerUp, GroupEntry.powerUp]
  · simp [State.reset, GroupSet.powerUp]
  · simp [State.reset, Meter.powerUp]

/-- Settles O8: the general record and the laid-out data by their layout, the written-out records by evaluation. -/
theorem writtenOutRecordsAndWords : Obligations.WrittenOutRecordsAndWords := by
  refine ⟨fun r => ⟨_, _, _, _, _, rfl, r.status.byte_mem, masterByte_toNat _ _, fun h => bytes16_toNat h, r.record_sum⟩,
    ⟨fun b => rfl, fun b => rfl, fun b t => ?_, fun c k h => ?_, fun total returned items set h => ?_⟩,
    by decide, by decide, by decide, by decide⟩
  · cases t <;> rfl
  · exact ⟨_, _, _, _, counters_bytes c k, bytes32_toNat h⟩
  · exact ⟨_, congrArg _ (bytes16_of_lt h)⟩

end Sys2Proof.Proofs

/-! # The link, the guard and the settings of a port (O9, O10, O12, O14, O40) -/

namespace Sys2Proof.Machine

open Sys2Proof Sys2Proof.Safety

/-! ### Events of one port -/

/-- An event that changes one port and perhaps raises one notice ends with the port replaced and the notice taken. -/
theorem Event.finish_modPort_raiseIf (s : State) (p : PortId) (f : Port → Port) (b : Bool) (n : Notice) :
    (((Event.start s).modPort p f).raiseIf b n).finish =
      notify (withPort s p (f (s.port p))) (if b then [n] else []) := by
  cases b
  · exact Event.finish_modPort s p f
  · exact Event.finish_of_freed_nil _ rfl

/-- A port that is not UP enters DOWN by its qualifier alone (R10, R19). -/
theorem Event.enterDown_of_not_up {c : Event} {p : PortId} (h : (c.port p).rx.link ≠ .up) :
    c.enterDown p = c.modPort p fun x => { x with rx := x.rx.inDown } := by
  unfold Event.enterDown
  rw [if_neg (by simpa [Port.isUp] using h)]

/-- A fault at the guard of `p`, counted, ends with the port replaced and the notices of the fault taken (R38). -/
theorem Event.finish_faultCounted (s : State) (p : PortId) (k : Counter) (f : FaultKind) :
    (((Event.start s).count p k).guardFault p f).finish =
      notify (withPort s p { s.port p with
        counters := countedUp (s.port p) k, guard := afterFault (s.port p).guard f }) (faultNotices p (s.port p).guard) := by
  have h := Event.finish_countedFault s p k f id
  rwa [Event.modPort_self rfl] at h

/-! ### Lock and markers (R9 to R21) -/

theorem execLockLost_of_not_up {s : State} {p : PortId} (cut : CutShort) (hk : (s.port p).rx.locked = true)
    (hd : (s.port p).rx.link ≠ .down) (hu : (s.port p).rx.link ≠ .up) :
    execLockLost p cut s = .next (withPort s p { s.port p with
      rx := (s.port p).rx.inDown
      counters := if cut = .cell then countedUp (s.port p) .notUp else (s.port p).counters }) := by
  unfold execLockLost
  rw [if_pos ⟨hk, hd⟩]
  have counted : ((Event.start s).count p .notUp).enterDown p =
      (Event.start s).modPort p fun x => { x.count .notUp 1 with rx := x.rx.inDown } := by
    rw [Event.enterDown_of_not_up (by simpa [Event.count, Port.count] using hu)]
    exact Event.modPort_modPort _ _ _ _
  cases cut
  case cell =>
    simp only [cutCounter, if_neg hu, counted, Event.finish_modPort]
    rfl
  all_goals
    simp only [cutCounter]
    rw [Event.enterDown_of_not_up hu, Event.finish_modPort]
    rfl

/-- A marker that the receiver of a port delivers, by the link state of the port (R11, R12). -/
theorem execMarkerReceived_holdoff {s : State} {p : PortId} (w : ControlWord) (hk : (s.port p).rx.locked = true)
    (hl : (s.port p).rx.link = .holdoff) :
    execMarkerReceived p w s =
      .next ((Event.start s).modPort p fun x => { x with rx := (s.port p).rx.holdoffMarker }).finish := by
  simp [execMarkerReceived, hk, hl]

theorem execMarkerReceived_qualifying {s : State} {p : PortId} (w : ControlWord) (hk : (s.port p).rx.locked = true)
    (hl : (s.port p).rx.link = .qualifying) :
    execMarkerReceived p w s =
      if goodMarker w then
        if (s.port p).rx.q ≤ (s.port p).rx.good + 1 then
          .next ((Event.start s).enterUp p ((s.port p).rx.good + 1)).finish
        else .next ((Event.start s).modPort p fun x => { x with
          rx := { (s.port p).rx with good := (s.port p).rx.good + 1 } }).finish
      else .next ((Event.start s).modPort p fun x => { x with rx := { (s.port p).rx with good := 0 } }).finish := by
  simp [execMarkerReceived, hk, hl]

theorem execMarkerReceived_up {s : State} {p : PortId} (w : ControlWord) (hk : (s.port p).rx.locked = true)
    (hl : (s.port p).rx.link = .up) :
    execMarkerReceived p w s =
      if goodMarker w then
        .next ((Event.start s).modPort p fun x => { x with rx := { (s.port p).rx with bad := 0 } }).finish
      else if (s.port p).rx.f ≤ (s.port p).rx.bad + 1 then .next ((Event.start s).enterDown p).finish
      else .next ((Event.start s).modPort p fun x => { x with
        rx := { (s.port p).rx with bad := (s.port p).rx.bad + 1 } }).finish := by
  simp [execMarkerReceived, hk, hl]

/-- The link enters UP: the port changed, its issue where it is ENABLED, the check of its arbiter, the rise of LINK (R21). -/
theorem Event.finish_enterUp (s : State) (p : PortId) (good : Nat) :
    let up : Port := { s.port p with
      rx := { (s.port p).rx with link := .up, good := good, bad := 0 }
      tx := { (s.port p).tx with state := .idle, congestionUpdate := true } }
    ((Event.start s).enterUp p good).finish =
      notify (afterPick (withPort s p (if (s.port p).admin = .enabled then up.issue else up)) p) [.link p true] := by
  have ends (f : Port → Port) : ((((Event.start s).modPort p f).raise (.link p true)).pickCheck p).finish =
      notify (afterPick (withPort s p (f (s.port p))) p) [.link p true] := by
    obtain ⟨hs, hr, hf⟩ := (((Event.start s).modPort p f).raise (.link p true)).pickCheck_eq p
    rw [Event.finish_of_freed_nil _ hf, hs, hr]
    rfl
  unfold Event.enterUp
  dsimp only
  split
  · next h =>
    rw [Event.modPort_modPort, ends, if_pos (show (s.port p).admin = .enabled from h)]
    rfl
  · next h =>
    rw [ends, if_neg (show ¬ (s.port p).admin = .enabled from h)]
    rfl

/-! ### Header errors (R1 to R3, R31) -/

theorem headerError_iff (data : List Byte) (closed : CellEnd) :
    headerError data closed = true ↔
      closed = .startSymbol ∨ data.length ≠ 80 ∨ byteSum (data.take 8) % 256 ≠ 255 ∨ 2 ≤ (readHeader data).kind.toNat := by
  have hk : ∀ k : BitVec 2, k.getLsbD 1 = true ↔ 2 ≤ k.toNat := by decide
  unfold headerError
  rw [Bool.or_eq_true, Bool.or_eq_true, hk, Bool.not_eq_true', checkPasses, beq_eq_false_iff_ne]
  cases closed <;> simp [framingFails, or_assoc]

/-- A header error of a cell on an UP and ENABLED port is counted, goes to the guard, and causes a credit issue (R31). -/
theorem Event.classify_headerError {c : Event} {p : PortId} {data : List Byte} {closed : CellEnd}
    (hl : (c.port p).rx.link = .up) (ha : (c.port p).admin = .enabled) (he : headerError data closed = true) :
    c.classify p data closed = ((c.count p .headerError).guardFault p .headerError).modPort p Port.issue := by
  simp [Event.classify, hl, ha, he, Event.discard]

/-- So is a bad destination (R33). -/
theorem Event.classify_badDest {c : Event} {p : PortId} {data : List Byte} {closed : CellEnd}
    (hl : (c.port p).rx.link = .up) (ha : (c.port p).admin = .enabled) (he : headerError data closed = false)
    (hp : (readHeader data).epoch = (c.port p).epoch) (hm : (readHeader data).multicast = false)
    (hd : 24 ≤ (readHeader data).port.toNat) :
    c.classify p data closed = ((c.count p .badDest).guardFault p .badDest).modPort p Port.issue := by
  simp [Event.classify, hl, ha, he, hp, hm, hd, Event.discard]

/-! ### Commands from the holder -/

/-- A command for the holder, from the holder, on a port, which carries it out and leaves what it frees. -/
theorem answered_portCommand {s : State} {sp : SupPort} (hs : s.master.holder = some sp) (code : Byte) (p : PortId)
    (f : PortId → Answer) :
    s.answered sp code (s.holderOnly sp (below 24 1 (portByte p).toNat f)) = s.answered sp code (f p) := by
  rw [State.holderOnly_holder s sp _ hs, below_portByte]

theorem clampRange_one {hi : Nat} (h : 1 ≤ hi) (n : Nat) : clampRange 1 hi n = if n = 0 then 1 else min n hi := by
  unfold clampRange
  split <;> omega

theorem guardModeArg_of_mem {b : Byte} {m : GuardMode} (h : (b, m) ∈ [(0#8, GuardMode.report), (1#8, .freeze)]) :
    guardModeArg b = some m := by
  simp only [List.mem_cons, Prod.mk.injEq, List.not_mem_nil, or_false] at h
  rcases h with ⟨rfl, rfl⟩ | ⟨rfl, rfl⟩ <;> rfl

theorem tolerateArg_of_mem {b : Byte} {t : Bool} (h : (b, t) ∈ [((0#8 : Byte), false), (1#8, true)]) :
    tolerateArg b = some t := by
  simp only [List.mem_cons, Prod.mk.injEq, List.not_mem_nil, or_false] at h
  rcases h with ⟨rfl, rfl⟩ | ⟨rfl, rfl⟩ <;> rfl

/-- GUARD_SET in the statements' words (R40). -/
theorem Guard.settle_eq (g : Guard) (m : GuardMode) (t : Bool) :
    g.settle m t = { g with
      mode := m, tolerate := t, state := if m = .freeze ∧ g.first ≠ none then .frozen else g.state } := by
  simp [Guard.settle, Option.isSome_iff_ne_none]

/-- GUARD_SET from the holder; `rises` says whether the guard becomes FROZEN by it (R40, R42). -/
theorem execGuardSet_eq {s : State} {sp : SupPort} {p : PortId} (hs : s.master.holder = some sp) {mb tb : Byte}
    {m : GuardMode} {t : Bool} (hm : guardModeArg mb = some m) (ht : tolerateArg tb = some t) {rises : Bool}
    (hr : ((s.port p).guard.state == .normal && ((s.port p).guard.settle m t).state == .frozen) = rises) :
    exec (.guardSet sp [portByte p, mb, tb]) s =
      .next ((notify (withPort s p { s.port p with guard := (s.port p).guard.settle m t })
        (if rises then [.frozen p true] else [])).respond sp 0x24#8 .ok (.guard ((s.port p).guard.settle m t))) := by
  subst hr
  show Host.Outcome.next (s.answered sp 0x24#8 _) = _
  rw [answered_portCommand hs, hm, ht, named_some, named_some, State.answered_done, Event.finish_modPort_raiseIf]

/-- GUARD_RESUME, and the guard's part in PORT_RESET: the record cleared, FROZEN falling where it stood (R41, R42, R43). -/
theorem Event.finish_clearGuard (s : State) (p : PortId) :
    ((Event.start s).clearGuard p).finish =
      notify (withPort s p { s.port p with guard := { (s.port p).guard with state := .normal, first := none, count := 0 } })
        (if (s.port p).guard.state = .frozen then [.frozen p false] else []) := by
  unfold Event.clearGuard
  rw [Event.finish_modPort_raiseIf]
  simp only [beq_iff_eq]
  rfl

/-- A port lends where it is UP and ENABLED (R49). -/
theorem Port.lends_iff (x : Port) : x.lends = true ↔ x.rx.link = .up ∧ x.admin = .enabled := by
  simp [Port.lends]

end Sys2Proof.Machine

namespace Sys2Proof.Proofs

open Sys2Proof Sys2Proof.Machine Sys2Proof.Safety

/-- Settles O9: one branch of the meaning of LOCK_ACQUIRED, LOCK_LOST or MARKER_RECEIVED each. -/
theorem qualifierTakesLockAndMarkers : Obligations.QualifierTakesLockAndMarkers := by
  refine ⟨fun s p => ⟨fun hk hd => ?_, fun cut hk hl => ?_, fun w hk hl => ?_, fun w hk hl hg => ?_,
    fun w hk hl hg hq => ?_⟩, fun s p w hk hl => ⟨fun hg => ?_, fun hg hf => ?_⟩⟩
  · show execLockAcquired p s = _
    unfold execLockAcquired
    rw [if_pos ⟨hk, hd⟩, Event.finish_modPort]
    rfl
  · show execLockLost p cut s = _
    exact execLockLost_of_not_up cut hk (by rcases hl with h | h <;> simp [h]) (by rcases hl with h | h <;> simp [h])
  · show execMarkerReceived p w s = _
    rw [execMarkerReceived_holdoff w hk hl, Event.finish_modPort]
    rfl
  · show execMarkerReceived p w s = _
    rw [execMarkerReceived_qualifying w hk hl, if_neg (by simp [hg]), Event.finish_modPort]
  · show execMarkerReceived p w s = _
    rw [execMarkerReceived_qualifying w hk hl, if_pos hg, if_neg (Nat.not_le.2 hq), Event.finish_modPort]
  · show execMarkerReceived p w s = _
    rw [execMarkerReceived_up w hk hl, if_pos hg, Event.finish_modPort]
  · show execMarkerReceived p w s = _
    rw [execMarkerReceived_up w hk hl, if_neg (by simp [hg]), if_neg (Nat.not_le.2 hf), Event.finish_modPort]

/-- Settles O10: the event of a link that enters UP, whole. -/
theorem linkEntersUp : Obligations.LinkEntersUp := by
  intro s p w x hk hl hg hq
  show execMarkerReceived p w s = _
  rw [execMarkerReceived_qualifying w hk hl, if_pos hg, if_pos hq]
  exact congrArg _ (Event.finish_enterUp s p (x.rx.good + 1))

/-- Settles O12: what an unlocked or not yet UP receiver leaves alone, and the fault of a CONTROL_ERROR word in UP. -/
theorem receivedUnitsByLinkState : Obligations.ReceivedUnitsByLinkState := by
  refine ⟨fun s p => ⟨rfl, rfl, rfl, fun h => ?_, fun hk => ⟨fun w => ?_, fun data closed => ?_⟩⟩, fun s p hk hl => ?_⟩
  · have hd : ¬ (s.port p).delivers = true := by
      simp only [Port.delivers, Bool.and_eq_true, beq_iff_eq, not_and_or, Bool.not_eq_true]
      exact h
    exact ⟨if_neg hd, if_neg hd, if_neg hd⟩
  · show execMarkerReceived p w s = _
    simp [execMarkerReceived, hk]
  · show execCellReceptionComplete p data closed s = _
    simp [execCellReceptionComplete, hk]
  · show execControlErrorWord p s = _
    unfold execControlErrorWord
    rw [if_pos (by simp [Port.delivers, hk, hl]), Event.finish_faultCounted]

/-- Settles O14: the two branches of classification that are faults with a credit issue. -/
theorem headerErrorAndBadDestination : Obligations.HeaderErrorAndBadDestination := by
  refine ⟨headerError_iff, ?_⟩
  intro s p data closed x h hk hl ha
  refine ⟨fun he => ?_, fun he hp hm hd => ?_⟩
  all_goals
    show execCellReceptionComplete p data closed s = _
    unfold execCellReceptionComplete
    rw [if_pos hk]
  · rw [Event.classify_headerError (c := Event.start s) hl ha he, Event.finish_countedFault]
  · rw [Event.classify_badDest (c := Event.start s) hl ha he hp hm hd, Event.finish_countedFault]

/-- Settles O40: each command by the one change of its port that it makes. -/
theorem portSettingsAreWritten : Obligations.PortSettingsAreWritten := by
  intro s sp p hs x
  refine ⟨fun hHi hLo q f => ?_, fun mb m tb t hm ht => ?_, ?_, ?_, fun h => ?_, fun h => ?_⟩
  · show Host.Outcome.next (s.answered sp 0x23#8 _) = _
    rw [answered_portCommand hs, State.answered_done, Event.finish_modPort, clampRange_one (by decide),
      clampRange_one (by decide)]
    rfl
  · have written {rises : Bool} := execGuardSet_eq (p := p) (rises := rises) hs (guardModeArg_of_mem hm) (tolerateArg_of_mem ht)
    rw [Guard.settle_eq] at written
    refine ⟨fun hf hn => written (rises := true) ?_, fun hn => written (rises := false) ?_⟩
    · simp only [Bool.and_eq_true, beq_iff_eq]
      exact ⟨hn, if_pos hf⟩
    · refine Bool.eq_false_iff.2 fun hr => ?_
      simp only [Bool.and_eq_true, beq_iff_eq] at hr
      obtain ⟨hst, hfz⟩ := hr
      split at hfz
      · exact hn ⟨‹_›, hst⟩
      · exact absurd (hst.symm.trans hfz) (by decide)
  · show Host.Outcome.next (s.answered sp 0x25#8 _) = _
    rw [answered_portCommand hs]
    simp only [State.answered_done, Event.finish_clearGuard]
    simp [Event.clearGuard]
    rfl
  · show Host.Outcome.next (s.answered sp 0x54#8 _) = _
    rw [answered_portCommand hs, State.answered_done, Event.finish_modPort]
  · show Host.Outcome.next (s.answered sp 0x22#8 _) = _
    rw [answered_portCommand hs, if_pos ((Port.lends_iff _).2 h)]
    simp only [State.answered_done, Event.finish_modPort, Event.modPort_port_self]
    rfl
  · show Host.Outcome.next (s.answered sp 0x22#8 _) = _
    rw [answered_portCommand hs, if_neg fun hx => h ((Port.lends_iff _).1 hx), State.answered_reads]

end Sys2Proof.Proofs

/-! # An output flushed and pruned, whole (R50, R51, R61, R95, R142) -/

namespace Sys2Proof.Machine

open Sys2Proof Sys2Proof.Safety

/-! ### The keys freed in an event (R51) -/

theorem insertFreed_perm (x : PortId × Key) (l : List (PortId × Key)) : (insertFreed x l).Perm (x :: l) := by
  induction l with
  | nil => exact .refl _
  | cons y l ih =>
    unfold insertFreed
    split
    · exact .refl _
    · exact (ih.cons y).trans (.swap _ _ _)

theorem sortFreed_perm (l : List (PortId × Key)) : (sortFreed l).Perm l := by
  induction l with
  | nil => exact .refl _
  | cons x l ih => exact (insertFreed_perm x _).trans (ih.cons x)

/-- The freed keys stand in key order (R51). -/
theorem sortFreed_sorted (l : List (PortId × Key)) : (sortFreed l).Pairwise fun a b => a.2 ≤ b.2 := by
  have insert (x : PortId × Key) (l : List (PortId × Key)) (h : l.Pairwise fun a b => a.2 ≤ b.2) :
      (insertFreed x l).Pairwise fun a b => a.2 ≤ b.2 := by
    induction l with
    | nil => simp [insertFreed]
    | cons y l ih =>
      obtain ⟨hy, hl⟩ := List.pairwise_cons.1 h
      unfold insertFreed
      split
      · next hxy =>
        refine List.pairwise_cons.2 ⟨fun z hz => ?_, h⟩
        rcases List.mem_cons.1 hz with rfl | hz
        · exact hxy
        · exact hxy.trans (hy z hz)
      · next hxy =>
        refine List.pairwise_cons.2 ⟨fun z hz => ?_, ih hl⟩
        rcases List.mem_cons.1 ((insertFreed_perm x l).mem_iff.1 hz) with rfl | hz
        · exact (not_le.1 hxy).le
        · exact hy z hz
  induction l with
  | nil => exact .nil
  | cons x l ih => exact insert x _ ih

/-- Among keys noted port by port, those of port `q`. -/
theorem noted_of_port (g : PortId → List Key) {l : List PortId} (hl : l.Nodup) {q : PortId} (hq : q ∈ l) :
    ((l.flatMap fun i => (g i).map fun k => (i, k)).filter (·.1 = q)).map Prod.snd = g q := by
  have other {i : PortId} (h : i ≠ q) : ((g i).map fun k => (i, k)).filter (·.1 = q) = [] := by
    simp [List.filter_eq_nil_iff, h]
  have own : ((g q).map fun k => (q, k)).filter (·.1 = q) = (g q).map fun k => (q, k) := by
    simp [List.filter_eq_self]
  have absent : ∀ l : List PortId, q ∉ l → (l.flatMap fun i => (g i).map fun k => (i, k)).filter (·.1 = q) = [] := by
    intro l h
    induction l with
    | nil => rfl
    | cons i l ih =>
      rw [List.mem_cons, not_or] at h
      rw [List.flatMap_cons, List.filter_append, other (Ne.symm h.1), ih h.2, List.nil_append]
  induction l with
  | nil => cases hq
  | cons i l ih =>
    obtain ⟨hi, hl⟩ := List.nodup_cons.1 hl
    rw [List.flatMap_cons, List.filter_append]
    by_cases h : i = q
    · subst h
      rw [own, absent l hi, List.append_nil, List.map_map]
      exact List.map_id _
    · rw [other h, List.nil_append]
      exact ih hl ((List.mem_cons.1 hq).resolve_left (Ne.symm h))

/-- An input that lends notes, in a flush and prune, the keys under which it has fewer entries after it than before (R50). -/
theorem Port.mem_lossKeys {x : Port} (hx : x.lends = true) (o : PortId) (k : Key) :
    k ∈ x.lossKeys o ↔ (x.loseOutput o).occupancy k < x.occupancy k := by
  unfold Port.lossKeys
  rw [if_pos hx]
  have hMb := unicastKey_ne_keyM o .bulk
  have hMe := unicastKey_ne_keyM o .express
  rcases key_cases k with rfl | ⟨q, c, rfl⟩
  · have := pruneCopies_length_le o x.copies
    by_cases h : x.leavingCopies o = 0 <;> simp [hMb.symm, hMe.symm, h] <;> unfold Port.leavingCopies at h <;> omega
  · have hM := unicastKey_ne_keyM q c
    rw [Port.occupancy_unicast, Port.occupancy_unicast, Port.loseOutput_queue]
    by_cases hq : q = o
    · subst hq
      have hbe : unicastKey q .bulk ≠ unicastKey q .express := fun e => by simpa using (unicastKey_inj e).2
      cases c <;> simp [hM, hbe, hbe.symm, List.length_pos_iff]
    · have hne (d : Class) : unicastKey q c ≠ unicastKey o d := fun e => hq (unicastKey_inj e).1
      simp [hM, hne, hq]

theorem Port.nodup_lossKeys (x : Port) (o : PortId) : (x.lossKeys o).Nodup := by
  have hMb := unicastKey_ne_keyM o .bulk
  have hMe := unicastKey_ne_keyM o .express
  have hbe : unicastKey o .bulk ≠ unicastKey o .express := fun e => by simpa using (unicastKey_inj e).2
  unfold Port.lossKeys
  split
  · split <;> split <;> split <;> simp [hMb, hMe, hbe]
  · exact .nil

/-- The keys that join the list of a port after a flush and prune are those noted for it (R50, R51). -/
theorem Event.joining_perm {c d : Event} {o : PortId} (hc : c.freed = []) (hd : d.freed = (c.closeOutput o).freed)
    (q : PortId) : (d.joining q).Perm ((c.port q).lossKeys o) := by
  refine (((sortFreed_perm d.freed).filter (·.1 = q)).map Prod.snd).trans (.of_eq ?_)
  rw [hd, (c.closeOutput_eq o).2.2, hc, List.nil_append, noted_of_port _ nodup_allPorts (mem_allPorts q)]

/-- The keys that join the list of a port that lends, after a flush and prune: those under which it has lost places, in key
order (R51). -/
theorem Event.joining_closeOutput {c d : Event} {o : PortId} (hc : c.freed = []) (hd : d.freed = (c.closeOutput o).freed)
    {q : PortId} (hq : (c.port q).lends = true) :
    d.joining q = allKeys.filter fun k => ((c.port q).loseOutput o).occupancy k < (c.port q).occupancy k := by
  have hp := Event.joining_perm hc hd q
  have hsorted : (d.joining q).Pairwise (· < ·) := by
    have hle : (d.joining q).Pairwise (· ≤ ·) :=
      List.pairwise_map.2 ((sortFreed_sorted d.freed).filter _)
    exact (hle.and (hp.nodup_iff.2 ((c.port q).nodup_lossKeys o))).imp fun h => lt_of_le_of_ne h.1 h.2
  have hkeys : (allKeys.filter fun k => ((c.port q).loseOutput o).occupancy k < (c.port q).occupancy k).Pairwise (· < ·) :=
    (List.pairwise_lt_finRange 49).filter _
  refine hsorted.eq_of_mem_iff hkeys fun k => ?_
  rw [hp.mem_iff, Port.mem_lossKeys hq, List.mem_filter, decide_eq_true_eq]
  exact ⟨fun h => ⟨mem_allKeys k, h⟩, fun h => h.2⟩

/-! ### States that agree but on one port's own part -/

/-- What a port stores and chooses by: its entries, its monitor, its epoch and its arbiter. -/
structure Port.SameStore (x y : Port) : Prop where
  queues : y.queues = x.queues
  copies : y.copies = x.copies
  monitor : y.monitor = x.monitor
  epoch : y.epoch = x.epoch
  arbiter : y.arbiter = x.arbiter

/-- The two agree but on receiver, guard, account, transmitter, administration and counters of port `o`, on notice units and on
management ports. -/
structure State.AgreeBut (o : PortId) (s t : State) : Prop where
  port : ∀ q, q ≠ o → t.port q = s.port q
  store : (s.port o).SameStore (t.port o)
  groups : t.groups = s.groups
  meters : t.meters = s.meters
  master : t.master = s.master
  pending : t.pending = s.pending

theorem State.AgreeBut.sameStore {o : PortId} {s t : State} (h : s.AgreeBut o t) (q : PortId) :
    (s.port q).SameStore (t.port q) := by
  by_cases hq : q = o
  · exact hq ▸ h.store
  · rw [h.port q hq]
    exact ⟨rfl, rfl, rfl, rfl, rfl⟩

theorem Port.SameStore.refl (x : Port) : x.SameStore x := ⟨rfl, rfl, rfl, rfl, rfl⟩

theorem Port.SameStore.trans {x y z : Port} (h : x.SameStore y) (h' : y.SameStore z) : x.SameStore z :=
  ⟨h'.queues.trans h.queues, h'.copies.trans h.copies, h'.monitor.trans h.monitor, h'.epoch.trans h.epoch,
    h'.arbiter.trans h.arbiter⟩

theorem State.AgreeBut.refl (o : PortId) (s : State) : s.AgreeBut o s :=
  ⟨fun _ _ => rfl, .refl _, rfl, rfl, rfl, rfl⟩

theorem State.AgreeBut.trans {o : PortId} {s t u : State} (h : s.AgreeBut o t) (h' : t.AgreeBut o u) : s.AgreeBut o u :=
  ⟨fun q hq => (h'.port q hq).trans (h.port q hq), h.store.trans h'.store, h'.groups.trans h.groups,
    h'.meters.trans h.meters, h'.master.trans h.master, h'.pending.trans h.pending⟩

/-- A change of one port that keeps its store is one of its own part. -/
theorem Event.agreeBut_modPort {c : Event} {p : PortId} {f : Port → Port} (h : (c.port p).SameStore (f (c.port p))) :
    c.AgreeBut p (c.modPort p f).toState where
  port _ hq := Event.modPort_port_ne _ _ hq
  store := by
    show (c.port p).SameStore ((c.modPort p f).port p)
    rwa [Event.modPort_port_self]
  groups := rfl
  meters := rfl
  master := rfl
  pending := rfl

theorem Port.SameStore.queue {x y : Port} (h : x.SameStore y) (o : PortId) (c : Class) : y.queue o c = x.queue o c := by
  unfold Port.queue
  rw [h.queues]

/-- What an output is owed is told by the entries (R61, R95). -/
theorem State.AgreeBut.owed {o : PortId} {s t : State} (h : s.AgreeBut o t) (q : PortId) : t.owed q = s.owed q := by
  simp only [State.owed, State.cellsToward, State.copiesToward, (h.sameStore _).queue, (h.sameStore _).copies]

theorem State.AgreeBut.flagAt {o : PortId} {s t : State} (h : s.AgreeBut o t) (q : PortId) (n : Nat) :
    Safety.flagAt t q n = Safety.flagAt s q n := by
  simp only [Safety.flagAt, (h.sameStore q).monitor]

theorem State.AgreeBut.flushEdge {o : PortId} {s t : State} (h : s.AgreeBut o t) (q : PortId) :
    Safety.flushEdge t q = Safety.flushEdge s q := by
  simp only [Safety.flushEdge, flagEdge, h.flagAt, h.owed, (h.sameStore q).monitor]

/-! ### The flush and prune in the statements' words -/

/-- The entries, the epoch and the arbiter of a port as an output is closed (R61, R95). -/
theorem Event.closeOutput_store (c : Event) (o q : PortId) :
    ((c.closeOutput o).port q).queues = ((c.port q).loseOutput o).queues ∧
    ((c.closeOutput o).port q).copies = pruneCopies o (c.port q).copies ∧
    ((c.closeOutput o).port q).epoch = (c.port q).epoch ∧ ((c.closeOutput o).port q).arbiter = (c.port q).arbiter := by
  rw [Event.closeOutput_port]
  dsimp only
  unfold State.closedPort
  split <;> exact ⟨rfl, rfl, rfl, rfl⟩

/-- Occupancy is told by the entries (R49). -/
theorem Port.occupancy_congr {x y : Port} (hq : y.queues = x.queues) (hc : y.copies = x.copies) (k : Key) :
    y.occupancy k = x.occupancy k := by
  unfold Port.occupancy
  rw [hq, hc]

/-- The flush and prune of `o`, in an event that freed nothing before it and that changes port `o`'s own part alone beside it,
is that of the statements. -/
theorem flushedToward_of_closeOutput {s : State} {o : PortId} {d r : Event} (hd : s.AgreeBut o d.toState)
    (hf : d.freed = []) (hr : (d.closeOutput o).AgreeBut o r.toState) (hrf : r.freed = (d.closeOutput o).freed) :
    FlushedToward o s r.finish := by
  have hshared := d.closeOutput_shared o
  have hqueues (i : PortId) : (r.finish.port i).queues = ((d.port i).loseOutput o).queues := by
    rw [Event.finish_port]
    exact (hr.sameStore i).queues.trans (d.closeOutput_store o i).1
  have hcopies (i : PortId) : (r.finish.port i).copies = pruneCopies o (s.port i).copies := by
    rw [Event.finish_port]
    exact ((hr.sameStore i).copies.trans (d.closeOutput_store o i).2.1).trans
      (congrArg (pruneCopies o) (hd.sameStore i).copies)
  have hqueue (i q : PortId) (c : Class) : (r.finish.port i).queue q c = if q = o then [] else (s.port i).queue q c := by
    rw [show (r.finish.port i).queue q c = ((d.port i).loseOutput o).queue q c by
      unfold Port.queue; rw [hqueues], Port.loseOutput_queue, (hd.sameStore i).queue]
  have hother {i : PortId} (hi : i ≠ o) : r.finish.port i = { (s.port i).afterLoss o with
      monitor := (s.port i).monitor
      tx := owed (flagAt s o ((s.port o).monitor.waiting - s.owed o) != (s.port o).monitor.flag) (s.port i)
      account := { ((s.port i).afterLoss o).account with
        returnList := (r.joining i).foldl joinKey (s.port i).account.returnList } } := by
    have hport : r.port i = (d.closeOutput o).port i := hr.port i hi
    have hi' : d.port i = s.port i := hd.port i hi
    rw [Event.finish_port, hport, Event.closeOutput_port]
    simp only [State.closedPort, if_neg hi]
    have hclosed : d.toState.port i = s.port i := hi'
    rw [hclosed, hd.flagAt, hd.owed, (hd.sameStore o).monitor]
    have hret : ((s.port i).afterLoss o).account.returnList = (s.port i).account.returnList := by
      unfold Port.afterLoss
      dsimp only
      split <;> rfl
    rw [hret]
    rfl
  refine ⟨fun i c => ?_, fun i q c hq => ?_, hcopies, fun i hi => ?_, ?_, fun i hi => ?_, fun i => ?_, ?_, ?_, ?_, ?_⟩
  · rw [hqueue, if_pos rfl]
  · rw [hqueue, if_neg hq]
  · have hocc (k : Key) : (r.finish.port i).occupancy k = ((s.port i).loseOutput o).occupancy k := by
      refine Port.occupancy_congr ?_ (hcopies i) k
      rw [hqueues, hd.port i hi]
    unfold GainsLost
    simp only [hocc]
    by_cases hl : (s.port i).lends = true
    · rw [if_pos ((Port.lends_iff _).1 hl), hother hi]
      have hi' : d.port i = s.port i := hd.port i hi
      rw [Event.joining_closeOutput hf hrf (hi' ▸ hl), hi']
      simp only [Port.afterLoss, if_pos hl]
    · rw [if_neg fun h => hl ((Port.lends_iff _).2 h), hother hi]
      have hnone : r.joining i = [] := by
        have h := Event.joining_perm hf hrf i
        rwa [hd.port i hi, Port.lossKeys, if_neg hl, List.perm_nil] at h
      rw [hnone]
      simp only [Port.afterLoss, if_neg hl]
      rfl
  · rw [Event.finish_port]
    refine (hr.sameStore o).monitor.trans ?_
    rw [Event.closeOutput_port]
    simp only [if_true]
    rw [hd.flagAt, hd.owed, (hd.sameStore o).monitor]
  · rw [hother hi]
    exact ⟨rfl, rfl, rfl, rfl, rfl, rfl⟩
  · rw [Event.finish_port]
    exact ⟨((hr.sameStore i).epoch.trans (d.closeOutput_store o i).2.2.1).trans (hd.sameStore i).epoch,
      ((hr.sameStore i).arbiter.trans (d.closeOutput_store o i).2.2.2).trans (hd.sameStore i).arbiter⟩
  · rw [Event.finish_groups]
    exact (hr.groups.trans hshared.1).trans hd.groups
  · rw [Event.finish_meters]
    exact (hr.meters.trans hshared.2.1).trans hd.meters
  · rw [Event.finish_master]
    exact (hr.master.trans hshared.2.2.1).trans hd.master
  · rw [Event.finish_pending]
    exact (hr.pending.trans hshared.2.2.2.2.2).trans hd.pending

end Sys2Proof.Machine

/-! # The link leaves UP, and PORT_RESET (O11, O39) -/

namespace Sys2Proof.Machine

open Sys2Proof Sys2Proof.Safety

/-! ### What holds of the port whatever drains complete (R20) -/

/-- The event has taken port `p`, which was `x`, out of UP: what R20 does to the port itself, with no key freed for it. -/
structure Event.Left (p : PortId) (x : Port) (c : Event) : Prop where
  rx : (c.port p).rx = x.rx.inDown
  account : (c.port p).account =
    { outstanding := .fill 0, pending := .fill 0, returnList := [], resyncPending := false, inFlight := none }
  tx : (c.port p).tx = x.tx.linkDown
  epoch : (c.port p).epoch = x.epoch
  freed : ∀ f ∈ c.freed, f.1 ≠ p

/-- The event as the link of `p` leaves UP, before its output is taken (R20). -/
def Event.downed (c : Event) (p : PortId) : Event :=
  ((c.modPort p Port.leaveUp).raise (.link p false)).raiseIf ((c.port p).tx.state == .stalled) (.stall p false)

theorem Event.downed_port (c : Event) (p q : PortId) :
    (c.downed p).port q = if q = p then (c.port q).leaveUp else c.port q := by
  unfold Event.downed
  rw [Event.raiseIf_port, Event.raise_port, Event.modPort_port]

@[simp] theorem Event.downed_freed (c : Event) (p : PortId) : (c.downed p).freed = c.freed := by
  simp [Event.downed]

theorem Event.downed_left {c : Event} {p : PortId} (h : ∀ f ∈ c.freed, f.1 ≠ p) : (c.downed p).Left p (c.port p) where
  rx := by rw [Event.downed_port, if_pos rfl]; rfl
  account := by rw [Event.downed_port, if_pos rfl]; rfl
  tx := by rw [Event.downed_port, if_pos rfl]; rfl
  epoch := by rw [Event.downed_port, if_pos rfl]; rfl
  freed := by rwa [Event.downed_freed]

/-- A port that is not UP lends nothing (R49). -/
theorem Port.lends_of_inDown {x : Port} {r : Receiver} (h : x.rx = r.inDown) : x.lends = false := by
  simp [Port.lends, h, Receiver.inDown]

/-- A transmitter whose link is DOWN has no cell to drop (R123, R126). -/
theorem Transmitter.dropCell_linkDown (t : Transmitter) : t.linkDown.dropCell = t.linkDown := rfl

/-- An output closed leaves a port that has left UP as it is (R50, R61, R126). -/
theorem Event.Left.closeOutput {p : PortId} {x : Port} {c : Event} (h : c.Left p x) (o : PortId) :
    (c.closeOutput o).Left p x := by
  have hl : (c.port p).lends = false := Port.lends_of_inDown h.rx
  have hclosed : (c.closedPort o p).rx = x.rx.inDown ∧ (c.closedPort o p).account = (c.port p).account ∧
      (c.closedPort o p).tx = x.tx.linkDown ∧ (c.closedPort o p).epoch = x.epoch := by
    have hdrop : (c.port p).tx.dropCell = x.tx.linkDown := by rw [h.tx, Transmitter.dropCell_linkDown]
    have hacc : ((c.port p).afterLoss o).account = (c.port p).account := by simp [Port.afterLoss, hl]
    unfold State.closedPort
    split
    · exact ⟨h.rx, hacc, hdrop, h.epoch⟩
    · exact ⟨h.rx, hacc, h.tx, h.epoch⟩
  obtain ⟨hrx, hac, htx, hep⟩ := hclosed
  have hport := c.closeOutput_port o p
  dsimp only at hport
  refine ⟨?_, ?_, ?_, ?_, fun f hf => ?_⟩
  · rw [hport]; exact hrx
  · rw [hport]; exact hac.trans h.account
  · rw [hport]
    show owed _ (c.closedPort o p) = _
    rw [owed, if_neg (by simp [hrx, Receiver.inDown]), htx]
  · rw [hport]; exact hep
  · rw [(c.closeOutput_eq o).2.2, List.mem_append, List.mem_flatMap] at hf
    rcases hf with hf | ⟨i, -, hf⟩
    · exact h.freed f hf
    · obtain ⟨k, hk, rfl⟩ := List.mem_map.1 hf
      rintro rfl
      simp [Port.lossKeys, hl] at hk

/-- The end of a drain, that of the port itself too, leaves it as it is but for its administration state (R59, R162). -/
theorem Event.Left.endDrain {p : PortId} {x : Port} {c : Event} (h : c.Left p x) (i : PortId) : (c.endDrain i).Left p x := by
  have hport : (c.endDrain i).port p = if p = i then { (c.port p).withdraw with admin := .disabled } else c.port p := by
    unfold Event.endDrain
    rw [Event.raise_port, Event.modPort_port]
  by_cases hp : p = i
  · rw [if_pos hp] at hport
    refine ⟨?_, ?_, ?_, ?_, h.freed⟩ <;> rw [hport]
    · exact h.rx
    · show ((c.port p).withdraw).account = _
      simp [Port.withdraw, Account.voided, h.account]
    · exact h.tx
    · exact h.epoch
  · rw [if_neg hp] at hport
    exact ⟨hport ▸ h.rx, hport ▸ h.account, hport ▸ h.tx, hport ▸ h.epoch, h.freed⟩

theorem Event.leaveUp_left {c : Event} {p : PortId} (h : ∀ f ∈ c.freed, f.1 ≠ p) : (c.leaveUp p).Left p (c.port p) :=
  Event.outputUnavailable_induct (fun d => d.Left p (c.port p)) p (fun _ i hd _ => (hd.endDrain i).closeOutput i) _
    ((Event.downed_left h).closeOutput p)

/-- The unit in transmission as the link leaves UP, in the statements' words (R123, R127, R128). -/
theorem Transmitter.linkDown_cutOff (t : Transmitter) :
    t.linkDown.onLink = none ∧
    t.linkDown.closed = (match t.onLink with
      | none => t.closed
      | some (.cell _ _) => some .abortMark
      | some _ => some .short) ∧
    t.linkDown.spacing = (match t.onLink with
      | none => t.spacing
      | some .marker => 0
      | some _ => t.spacing + 1) ∧
    t.linkDown.wordOwed = (t.wordOwed || t.onLink.any isCell) ∧ t.linkDown.limit = t.limit := by
  show t.cutOff.onLink = none ∧ t.cutOff.closed = _ ∧ t.cutOff.spacing = _ ∧ t.cutOff.wordOwed = _ ∧ t.cutOff.limit = _
  rw [Transmitter.cutOff_eq, Transmitter.endUnit_eq]
  cases h : t.onLink with
  | none => simp [h]
  | some u => cases u <;> simp [isCell, aborted]

/-- At the end of an event that has taken it out of UP, a port is as R20 leaves it. -/
theorem Event.Left.finish {p : PortId} {x : Port} {c : Event} (h : c.Left p x) : LeftUp x (c.finish.port p) := by
  have hnone : c.joining p = [] := by
    unfold Event.joining
    rw [List.map_eq_nil_iff, List.filter_eq_nil_iff]
    intro f hf
    simpa using h.freed f ((sortFreed_perm _).mem_iff.1 hf)
  have hport : c.finish.port p = c.port p := by
    rw [Event.finish_port, hnone]
    rfl
  obtain ⟨hon, hcl, hsp, hwo, hli⟩ := x.tx.linkDown_cutOff
  rw [hport]
  unfold LeftUp
  rw [h.rx, h.account, h.tx]
  exact ⟨rfl, rfl, rfl, rfl, rfl, hli, rfl, rfl, hon, hcl, hsp, hwo⟩

/-- Once an output has become unavailable no input waits for it, whatever drains complete (R61, R95). -/
theorem Event.outputUnavailable_clearOf (c : Event) (o i : PortId) : ((c.outputUnavailable o).port i).ClearOf o := by
  refine Event.outputUnavailable_induct (fun d => (d.port i).ClearOf o) o (fun d j hd _ => ?_) c ?_
  · exact ((d.endDrain_frame j i).toEntries.trans (Event.closeOutput_calm _ j i).toEntries).clearOf hd
  · obtain ⟨hq, hc⟩ := c.closeOutput_clears o i
    exact ⟨hq .bulk, hq .express, hc⟩

/-! ### What else happens where no drain completes (R20, R61, R95) -/

/-- Where every port DRAINING before is DRAINING after, the output is closed and that is all (R162). -/
theorem Event.outputUnavailable_of_noneEnds {c : Event} {o : PortId}
    (h : ∀ q, (c.port q).admin = .draining → ((c.outputUnavailable o).port q).admin = .draining) :
    c.outputUnavailable o = c.closeOutput o :=
  Event.drainChecks_of_noneEnds _ _ _ fun q hq => h q ((c.closeOutput_admin o q).symm.trans hq)

theorem Event.leaveUp_of_noneEnds {c : Event} {p : PortId}
    (h : ∀ q, (c.port q).admin = .draining → ((c.leaveUp p).port q).admin = .draining) :
    c.leaveUp p = (c.downed p).closeOutput p := by
  refine Event.outputUnavailable_of_noneEnds (c := c.downed p) fun q hq => h q ?_
  rw [Event.downed_port] at hq
  split at hq <;> exact hq

theorem Event.downed_agreeBut (c : Event) (p : PortId) : c.AgreeBut p (c.downed p).toState := by
  unfold Event.downed
  rw [Event.raiseIf_toState, Event.raise_toState]
  exact Event.agreeBut_modPort ⟨rfl, rfl, rfl, rfl, rfl⟩

/-- What port `p` itself keeps and counts as its output is closed after it has left UP (R61, R189). -/
theorem Event.closeOutput_downed_port (c : Event) (p : PortId) :
    let y := ((c.downed p).closeOutput p).port p
    y.admin = (c.port p).admin ∧ y.guard = (c.port p).guard ∧
      y.counters = flushedCounters c.toState p (c.port p).counters := by
  have hp : (c.downed p).port p = (c.port p).leaveUp := by rw [Event.downed_port, if_pos rfl]
  dsimp only
  rw [Event.closeOutput_port]
  simp only [State.closedPort, if_true]
  have hp' : (c.downed p).toState.port p = (c.port p).leaveUp := hp
  rw [hp', (c.downed_agreeBut p).owed]
  exact ⟨rfl, rfl, rfl⟩

/-- The notices as a link leaves UP, and perhaps a guard is cleared, in the order of R186. -/
theorem sortNotices_leaveUp (s : State) (p : PortId) (stalled frozen : Bool) :
    sortNotices ((([.link p false] ++ if stalled then [.stall p false] else []) ++ flushEdge s p) ++
      if frozen then [.frozen p false] else []) =
      [.link p false] ++ flushEdge s p ++ (if frozen then [.frozen p false] else []) ++
        if stalled then [.stall p false] else [] := by
  have edge : flushEdge s p = [] ∨ ∃ b, flushEdge s p = [.congestion p b] := by
    unfold flushEdge flagEdge
    split
    · exact .inl rfl
    · exact .inr ⟨_, rfl⟩
  rcases edge with h | ⟨b, h⟩ <;> rw [h] <;> cases stalled <;> cases frozen <;>
    simp [sortNotices, insertNotice, noticeBefore, Notice.pair, NoticeKind.code]

/-- The notices raised as a link leaves UP and no drain completes. -/
theorem Event.closeOutput_downed_raised {c : Event} (hr : c.raised = []) (p : PortId) :
    ((c.downed p).closeOutput p).raised =
      ([.link p false] ++ if (c.port p).tx.state == .stalled then [.stall p false] else []) ++ flushEdge c.toState p := by
  have hedge : flagEdge (c.downed p).toState p (((c.downed p).port p).monitor.waiting - (c.downed p).owed p) =
      flushEdge c.toState p := (c.downed_agreeBut p).flushEdge p
  rw [((c.downed p).closeOutput_eq p).2.1, hedge]
  simp only [Event.downed, Event.raiseIf_raised, Event.raise_raised, Event.modPort_raised, hr, List.nil_append]
  split <;> rfl

/-- The notice units after an event, from those of the state that it started from. -/
theorem Event.finish_units_of {s : State} {c : Event} (h : c.units = s.units) :
    c.finish.units = (notify s (sortNotices c.raised)).units := by
  rw [Event.finish_units]
  simp only [notify, h]

/-- The event from which a link leaves UP: the counters of its port are `k`, and nothing else has happened yet. -/
structure Event.Counts (s : State) (p : PortId) (k : Table Nat 15) (c : Event) : Prop where
  agree : s.AgreeBut p c.toState
  port : c.port p = { s.port p with counters := k }
  raised : c.raised = []
  freed : c.freed = []
  units : c.units = s.units
  spi : c.spi = s.spi

theorem Event.counts_start (s : State) (p : PortId) : (Event.start s).Counts s p (s.port p).counters :=
  ⟨.refl p s, rfl, rfl, rfl, rfl, rfl⟩

theorem Event.counts_count (s : State) (p : PortId) (k : Counter) :
    ((Event.start s).count p k).Counts s p (countedUp (s.port p) k) :=
  ⟨Event.agreeBut_modPort (c := Event.start s) ⟨rfl, rfl, rfl, rfl, rfl⟩, Event.modPort_port_self _ _ _, rfl, rfl, rfl, rfl⟩

section

variable {s : State} {p : PortId} {k : Table Nat 15} {c : Event} (h : c.Counts s p k)
include h

theorem Event.Counts.left : (c.leaveUp p).Left p (s.port p) := by
  have hl := Event.leaveUp_left (c := c) (p := p) (by simp [h.freed])
  rw [h.port] at hl
  exact ⟨hl.rx, hl.account, hl.tx, hl.epoch, hl.freed⟩

/-- Where every port DRAINING before is DRAINING after, the output of the port is closed and that is all. -/
theorem Event.Counts.leaveUp_eq (hnd : NoDrainEnds s (c.leaveUp p).toState) :
    c.leaveUp p = (c.downed p).closeOutput p := by
  refine Event.leaveUp_of_noneEnds fun q hq => hnd q ?_
  by_cases hqp : q = p
  · rw [hqp, h.port] at hq
    rw [hqp]
    exact hq
  · rw [← h.agree.port q hqp]
    exact hq

/-- The flush and prune as a link leaves UP, with what else the event then does to the port's own part. -/
theorem Event.Counts.flushedToward (hnd : NoDrainEnds s (c.leaveUp p).toState) {r : Event}
    (hr : (c.leaveUp p).AgreeBut p r.toState) (hf : r.freed = (c.leaveUp p).freed) : FlushedToward p s r.finish := by
  rw [h.leaveUp_eq hnd] at hr hf
  exact flushedToward_of_closeOutput (h.agree.trans (c.downed_agreeBut p)) (by rw [Event.downed_freed, h.freed]) hr hf

/-- What the port keeps and counts as its link leaves UP (R61, R189). -/
theorem Event.Counts.leaveUp_port (hnd : NoDrainEnds s (c.leaveUp p).toState) :
    ((c.leaveUp p).port p).admin = (s.port p).admin ∧ ((c.leaveUp p).port p).guard = (s.port p).guard ∧
      ((c.leaveUp p).port p).counters = flushedCounters s p k := by
  obtain ⟨ha, hg, hc⟩ := c.closeOutput_downed_port p
  rw [← h.leaveUp_eq hnd, h.port] at ha hg hc
  refine ⟨ha, hg, hc.trans ?_⟩
  unfold flushedCounters
  rw [h.agree.owed]

theorem Event.Counts.leaveUp_raised (hnd : NoDrainEnds s (c.leaveUp p).toState) :
    (c.leaveUp p).raised =
      ([.link p false] ++ if (s.port p).tx.state == .stalled then [.stall p false] else []) ++ flushEdge s p := by
  rw [h.leaveUp_eq hnd, Event.closeOutput_downed_raised h.raised, h.port, h.agree.flushEdge]

/-- The link of `p` leaves UP, and nothing more (R20). -/
theorem Event.Counts.finish_leaveUp :
    let t := (c.leaveUp p).finish
    LeftUp (s.port p) (t.port p) ∧ (∀ i q, (t.port i).queue p q = []) ∧
      (∀ i, ∀ e ∈ (t.port i).copies, e.remaining.has p = false) ∧
      (NoDrainEnds s t →
        FlushedToward p s t ∧ (t.port p).admin = (s.port p).admin ∧ (t.port p).guard = (s.port p).guard ∧
        (t.port p).counters = flushedCounters s p k ∧ t.spi = s.spi ∧
        t.units = (notify s ([.link p false] ++ flushEdge s p ++
          if (s.port p).tx.state = .stalled then [.stall p false] else [])).units) := by
  have hclear (i : PortId) : ((c.leaveUp p).finish.port i).ClearOf p :=
    ((c.leaveUp p).finish_calm i).toEntries.clearOf (Event.outputUnavailable_clearOf _ p i)
  have hshared := c.leaveUp_shared p
  refine ⟨h.left.finish, fun i q => ?_, fun i => (hclear i).2.2, fun hnd => ?_⟩
  · cases q
    · exact (hclear i).1
    · exact (hclear i).2.1
  · have hnd' : NoDrainEnds s (c.leaveUp p).toState := fun q hq => by
      have ht := hnd q hq
      rwa [Event.finish_port] at ht
    obtain ⟨ha, hg, hk⟩ := h.leaveUp_port hnd'
    refine ⟨h.flushedToward hnd' (.refl p _) rfl, ?_, ?_, ?_, ?_, ?_⟩
    · rw [Event.finish_port]
      exact ha
    · rw [Event.finish_port]
      exact hg
    · rw [Event.finish_port]
      exact hk
    · rw [Event.finish_spi]
      exact hshared.2.2.2.2.1.trans h.spi
    · have hsort := sortNotices_leaveUp s p ((s.port p).tx.state == .stalled) false
      rw [Event.finish_units_of (hshared.2.2.2.1.trans h.units), h.leaveUp_raised hnd']
      simp only [Bool.false_eq_true, if_false, List.append_nil, beq_iff_eq] at hsort ⊢
      rw [hsort]

end

end Sys2Proof.Machine

namespace Sys2Proof.Proofs

open Sys2Proof Sys2Proof.Machine Sys2Proof.Safety

/-- Settles O11: both causes are the event of a link that leaves UP, a cell cut short having been counted before it. -/
theorem linkLeavesUp : Obligations.LinkLeavesUp := by
  intro s p i cut x hk hl hi
  have down {c : Event} {k : Table Nat 15} (hc : c.Counts s p k) : c.enterDown p = c.leaveUp p := by
    unfold Event.enterDown
    rw [if_pos]
    rw [hc.port]
    simpa [Port.isUp] using hl
  rcases hi with rfl | ⟨rfl, w, rfl, hg, hf⟩
  · have run : exec (.lockLost p cut) s = .next ((match cutCounter x.rx.link cut with
        | some k => (Event.start s).count p k
        | none => Event.start s).enterDown p).finish := if_pos ⟨hk, by rw [hl]; decide⟩
    refine ⟨_, run, ?_⟩
    cases cut
    case cell =>
      have hc := Event.counts_count s p .linkLoss
      simp only [cutCounter, hl, if_true, down hc]
      exact hc.finish_leaveUp
    all_goals
      have hc := Event.counts_start s p
      simp only [cutCounter, down hc]
      exact hc.finish_leaveUp
  · have hc := Event.counts_start s p
    refine ⟨_, (execMarkerReceived_up w hk hl).trans ((if_neg (by simp [hg])).trans (if_pos hf)), ?_⟩
    rw [down hc]
    exact hc.finish_leaveUp

end Sys2Proof.Proofs

/-! # PORT_RESET (O39) -/

namespace Sys2Proof.Safety

open Sys2Proof Sys2Proof.Machine

/-- A response is no part of a flush and prune. -/
theorem FlushedToward.respond {o : PortId} {s t : State} (h : FlushedToward o s t) (sp : SupPort) (code : Byte)
    (st : Status) (d : RespData) : FlushedToward o s (t.respond sp code st d) := h

end Sys2Proof.Safety

namespace Sys2Proof.Machine

open Sys2Proof Sys2Proof.Safety

theorem Event.raiseIf_modPort (c : Event) (b : Bool) (n : Notice) (p : PortId) (f : Port → Port) :
    (c.raiseIf b n).modPort p f = (c.modPort p f).raiseIf b n := by
  cases b <;> rfl

/-- The guard record cleared, mode and tolerate kept (R43). -/
def Guard.cleared (g : Guard) : Guard := { g with state := .normal, first := none, count := 0 }

/-- What a port reset does after the qualifier has entered DOWN: the guard record and the counters are cleared, and FROZEN
falls (R19, R43, R165, R191). -/
theorem Event.resetPort_eq (c : Event) (p : PortId) :
    c.resetPort p =
      ((c.enterDown p).modPort p fun x =>
        { x with guard := ((c.enterDown p).port p).guard.cleared, counters := .fill 0 }).raiseIf
        (((c.enterDown p).port p).guard.state == .frozen) (.frozen p false) := by
  unfold Event.resetPort Event.clearGuard
  rw [Event.raiseIf_modPort, Event.modPort_modPort]
  rfl

/-- A port reset of a port that is not UP (R19). -/
theorem Event.finish_resetPort_of_not_up {s : State} {p : PortId} (hl : (s.port p).rx.link ≠ .up) :
    ((Event.start s).resetPort p).finish =
      notify (withPort s p { s.port p with
        rx := (s.port p).rx.inDown, guard := (s.port p).guard.cleared, counters := .fill 0 })
        (if (s.port p).guard.state = .frozen then [.frozen p false] else []) := by
  have hd := Event.enterDown_of_not_up (c := Event.start s) hl
  have hp : ((Event.start s).enterDown p).port p = { s.port p with rx := (s.port p).rx.inDown } := by
    rw [hd, Event.modPort_port_self]
    rfl
  rw [Event.resetPort_eq, hp, hd, Event.modPort_modPort, Event.finish_modPort_raiseIf]
  simp only [beq_iff_eq]

/-! ### A port reset of a port that is UP -/

/-- A link that leaves UP keeps the guard of its port, whatever drains complete (R43). -/
theorem Event.leaveUp_guard (c : Event) (p : PortId) : ((c.leaveUp p).port p).guard = (c.port p).guard := by
  have h : ((c.downed p).port p).guard = (c.port p).guard := by
    rw [Event.downed_port, if_pos rfl]
    rfl
  exact ((c.downed p).outputUnavailable_frame p p).guard.trans h

/-- The event of a port reset of a port that is UP. -/
theorem Event.resetPort_of_up {s : State} {p : PortId} (hl : (s.port p).rx.link = .up) :
    (Event.start s).resetPort p =
      (((Event.start s).leaveUp p).modPort p fun x => { x with guard := (s.port p).guard.cleared, counters := .fill 0 }).raiseIf
        ((s.port p).guard.state == .frozen) (.frozen p false) := by
  have hd : (Event.start s).enterDown p = (Event.start s).leaveUp p := if_pos (by simpa [Port.isUp] using hl)
  rw [Event.resetPort_eq, hd, Event.leaveUp_guard]
  rfl

section

variable {s : State} {p : PortId} (hl : (s.port p).rx.link = .up)
include hl

theorem Event.resetPort_port (q : PortId) :
    ((Event.start s).resetPort p).port q =
      if q = p then { ((Event.start s).leaveUp p).port q with guard := (s.port p).guard.cleared, counters := .fill 0 }
      else ((Event.start s).leaveUp p).port q := by
  rw [Event.resetPort_of_up hl, Event.raiseIf_port, Event.modPort_port]

theorem Event.resetPort_freed : ((Event.start s).resetPort p).freed = ((Event.start s).leaveUp p).freed := by
  rw [Event.resetPort_of_up hl, Event.raiseIf_freed, Event.modPort_freed]

theorem Event.resetPort_shared : (Event.start s).SharedSame ((Event.start s).resetPort p) := by
  rw [Event.resetPort_of_up hl]
  exact (((Event.start s).leaveUp_shared p).trans (Event.modPort_shared _ _ _)).trans (Event.raiseIf_shared _ _ _)

theorem Event.resetPort_left : ((Event.start s).resetPort p).Left p (s.port p) := by
  have h := (Event.counts_start s p).left
  have hp := Event.resetPort_port hl p
  rw [if_pos rfl] at hp
  refine ⟨?_, ?_, ?_, ?_, ?_⟩
  · rw [hp]; exact h.rx
  · rw [hp]; exact h.account
  · rw [hp]; exact h.tx
  · rw [hp]; exact h.epoch
  · rw [Event.resetPort_freed hl]; exact h.freed

theorem Event.resetPort_agreeBut : ((Event.start s).leaveUp p).AgreeBut p ((Event.start s).resetPort p).toState := by
  rw [Event.resetPort_of_up hl, Event.raiseIf_toState]
  exact Event.agreeBut_modPort ⟨rfl, rfl, rfl, rfl, rfl⟩

theorem Event.resetPort_admin (q : PortId) :
    (((Event.start s).resetPort p).port q).admin = (((Event.start s).leaveUp p).port q).admin := by
  rw [Event.resetPort_port hl]
  split <;> rfl

theorem Event.resetPort_clearOf (i : PortId) : (((Event.start s).resetPort p).port i).ClearOf p := by
  have h : (((Event.start s).leaveUp p).port i).ClearOf p := Event.outputUnavailable_clearOf _ p i
  have hs := (Event.resetPort_agreeBut hl).sameStore i
  exact (Port.Entries.of_eq hs.queues hs.copies).clearOf h

/-- The notices of a port reset of a port that is UP, in their order (R20, R42, R186). -/
theorem Event.resetPort_notices (hnd : NoDrainEnds s ((Event.start s).leaveUp p).toState) :
    sortNotices ((Event.start s).resetPort p).raised =
      [.link p false] ++ flushEdge s p ++ (if (s.port p).guard.state = .frozen then [.frozen p false] else []) ++
        if (s.port p).tx.state = .stalled then [.stall p false] else [] := by
  have h := sortNotices_leaveUp s p ((s.port p).tx.state == .stalled) ((s.port p).guard.state == .frozen)
  simp only [beq_iff_eq] at h
  rw [← h, Event.resetPort_of_up hl, Event.raiseIf_raised, Event.modPort_raised, (Event.counts_start s p).leaveUp_raised hnd]
  simp only [beq_iff_eq]
  split <;> simp

end

end Sys2Proof.Machine

namespace Sys2Proof.Proofs

open Sys2Proof Sys2Proof.Machine Sys2Proof.Safety

/-- Settles O39: a port that is not UP by its own change; one that is UP by the event of its link leaving UP, with its guard and
its counters cleared after it. -/
theorem portResetClearsThePort : Obligations.PortResetClearsThePort := by
  intro s sp p hs x down cleared thawed
  have run : exec (.portReset sp [portByte p]) s = .next (((Event.start s).resetPort p).finish.respond sp 0x21#8 .ok
      (.portReset x.rx.link x.isUp (((Event.start s).resetPort p).port p).admin
        (x.admin == .draining && (((Event.start s).resetPort p).port p).admin == .disabled))) := by
    show Host.Outcome.next (s.answered sp 0x21#8 _) = _
    rw [answered_portCommand hs, State.answered_done]
  refine ⟨fun hl => ?_, fun hl => ⟨_, run, ?_⟩⟩
  · have hup : x.isUp = false := by simpa [Port.isUp] using hl
    have hadmin : (((Event.start s).resetPort p).port p).admin = x.admin := by
      have h := Event.finish_port ((Event.start s).resetPort p) p
      rw [Event.finish_resetPort_of_not_up hl, notify_port, withPort_port_self] at h
      exact (congrArg Port.admin h).symm
    have hdrain : (x.admin == .draining && x.admin == .disabled) = false := by cases x.admin <;> rfl
    rw [run, hadmin, hdrain, hup, Event.finish_resetPort_of_not_up hl]
    rfl
  · have hport := Event.resetPort_port hl p
    rw [if_pos rfl] at hport
    have hfin := Event.finish_port ((Event.start s).resetPort p) p
    have hclear (i : PortId) : (((Event.start s).resetPort p).finish.port i).ClearOf p :=
      (Event.finish_calm _ i).toEntries.clearOf (Event.resetPort_clearOf hl i)
    have hshared := Event.resetPort_shared hl
    simp only [State.respond_port]
    refine ⟨?_, ?_, ?_, ?_, fun i q => ?_, fun i => ?_, fun hnd => ?_⟩
    · exact (Event.resetPort_left hl).finish
    · rw [hfin, hport]
      rfl
    · rw [hfin, hport]
    · rw [hfin]
      exact (Event.resetPort_left hl).epoch
    · cases q
      · exact (hclear i).1
      · exact (hclear i).2.1
    · exact (hclear i).2.2
    · have hnd' : NoDrainEnds s ((Event.start s).leaveUp p).toState := fun q hq => by
        have ht := hnd q hq
        rw [State.respond_port, Event.finish_port] at ht
        exact (Event.resetPort_admin hl q).symm.trans ht
      have hadmin : (((Event.start s).resetPort p).port p).admin = x.admin :=
        (Event.resetPort_admin hl p).trans ((Event.counts_start s p).leaveUp_port hnd').1
      have hdrain : (x.admin == .draining && x.admin == .disabled) = false := by cases x.admin <;> rfl
      have hup : x.isUp = true := by simpa [Port.isUp] using hl
      refine ⟨?_, ?_, ?_, ?_⟩
      · exact ((Event.counts_start s p).flushedToward hnd' (Event.resetPort_agreeBut hl)
          (Event.resetPort_freed hl)).respond sp 0x21#8 .ok _
      · rw [hfin]
        exact hadmin
      · rw [hadmin, hdrain, hup, show x.rx.link = .up from hl]
        simp only [State.respond, Event.finish_spi, Event.finish_master, hshared.2.2.2.2.1, hshared.2.2.1]
        rfl
      · rw [State.respond_units, Event.finish_units_of (s := s) hshared.2.2.2.1, Event.resetPort_notices hl hnd']

end Sys2Proof.Proofs

/-! # Classification of a cell that reaches an UP and ENABLED port (O13, O15, O16, O17) -/

namespace Sys2Proof.Machine

open Sys2Proof Sys2Proof.Safety

/-! ### The key of a cell (R25) -/

/-- `k` is the credit key of the cell: M for a multicast cell, that of its destination and class for a unicast cell. A unicast
cell with a bad destination has none. -/
def Header.HasKey (h : Header) (k : Key) : Prop :=
  h.multicast = true ∧ k = keyM ∨ h.multicast = false ∧ ∃ d, h.port = portByte d ∧ k = unicastKey d h.cls

theorem Header.HasKey.key_eq {h : Header} {k : Key} (hk : h.HasKey k) : h.key = k := by
  rcases hk with ⟨hm, rfl⟩ | ⟨hm, d, hd, rfl⟩
  · exact if_pos hm
  · simp [Header.key, hm, hd]

/-- A cell that has a key is not one of step 5 of R26. -/
theorem Header.HasKey.not_badDest {h : Header} {k : Key} (hk : h.HasKey k) :
    ¬ (h.multicast = false ∧ 24 ≤ h.port.toNat) := by
  rintro ⟨hm, hge⟩
  rcases hk with ⟨hm', -⟩ | ⟨-, d, hd, -⟩
  · simp [hm] at hm'
  · rw [hd, portByte_toNat] at hge
    omega

/-- A cell that is not one of step 5 of R26 has its key. -/
theorem Header.hasKey_key {h : Header} (hd : h.multicast = true ∨ h.port.toNat < 24) : h.HasKey h.key := by
  cases hm : h.multicast
  · have hlt : h.port.toNat < 24 := hd.resolve_left (by simp [hm])
    exact .inr ⟨hm, ⟨h.port.toNat, hlt⟩, by simp [portByte], by simp [Header.key, hm, hlt]⟩
  · exact .inl ⟨hm, if_pos hm⟩

/-! ### The steps of the rule (R26) -/

theorem Event.classify_notUp {c : Event} {p : PortId} (data : List Byte) (closed : CellEnd)
    (hl : (c.port p).rx.link ≠ .up) : c.classify p data closed = c.count p .notUp := if_pos hl

theorem Event.classify_admin {c : Event} {p : PortId} (data : List Byte) (closed : CellEnd)
    (hl : (c.port p).rx.link = .up) (ha : (c.port p).admin ≠ .enabled) :
    c.classify p data closed = c.count p .admin := by
  unfold Event.classify
  dsimp only
  rw [if_neg (not_not.2 hl), if_pos ha]
  rfl

theorem Event.classify_staleEpoch {c : Event} {p : PortId} {data : List Byte} {closed : CellEnd}
    (hl : (c.port p).rx.link = .up) (ha : (c.port p).admin = .enabled) (he : headerError data closed = false)
    (hp : (readHeader data).epoch ≠ (c.port p).epoch) : c.classify p data closed = c.count p .staleEpoch := by
  unfold Event.classify
  dsimp only
  rw [if_neg (not_not.2 hl), if_neg (not_not.2 ha), if_neg (by simp [he]), if_pos hp]
  rfl

theorem execCellReceptionComplete_locked {s : State} {p : PortId} (hk : (s.port p).rx.locked = true) (data : List Byte)
    (closed : CellEnd) :
    exec (.cellReceptionComplete p data closed) s = .next ((Event.start s).classify p data closed).finish := if_pos hk

/-- A cell counted on its port and nothing more ends with the counter raised. -/
theorem Event.finish_count (s : State) (p : PortId) (k : Counter) :
    ((Event.start s).count p k).finish = withPort s p { s.port p with counters := countedUp (s.port p) k } :=
  Event.finish_modPort s p _

/-! ### A charged cell -/

/-- The port with one outstanding credit of key `k` taken (R26 step 7, R27). -/
def Port.charged (x : Port) (k : Key) : Port :=
  { x with account := { x.account with outstanding := x.account.outstanding.put k (x.account.outstanding.get k - 1) } }

/-- The event of a cell of input `p` that has been charged under `k`, the group table being as its lookup leaves it (R26 step
7, R71). -/
def Event.charged (s : State) (p : PortId) (k : Key) (g : Table GroupSet 256) : Event :=
  { (Event.start s).charge p k with groups := g }

section

variable (s : State) (p : PortId) (k : Key) (g : Table GroupSet 256)

theorem Event.charged_port_self : (Event.charged s p k g).port p = (s.port p).charged k :=
  Event.modPort_port_self (Event.start s) p (Port.charged · k)

/-- A charge touches one account alone. -/
theorem Event.charged_port (o : PortId) :
    ∃ a, (Event.charged s p k g).port o = { s.port o with account := a } := by
  by_cases h : o = p
  · subst h
    exact ⟨_, Event.charged_port_self s o k g⟩
  · exact ⟨(s.port o).account, Table.get_put_ne _ _ h⟩

@[simp] theorem Event.charged_monitor (o : PortId) : ((Event.charged s p k g).port o).monitor = (s.port o).monitor := by
  obtain ⟨a, ha⟩ := Event.charged_port s p k g o
  rw [ha]

@[simp] theorem Event.charged_available (o : PortId) :
    ((Event.charged s p k g).port o).available = (s.port o).available := by
  obtain ⟨a, ha⟩ := Event.charged_port s p k g o
  rw [ha]
  rfl

theorem Event.charged_withPort (x : Port) :
    withPort (Event.charged s p k g).toState p x = { withPort s p x with groups := g } := by
  show ({ withPort (withPort s p _) p x with groups := g } : State) = _
  rw [withPort_withPort]

theorem Event.count_lends (c : Event) (p : PortId) (why : Counter) :
    ((c.count p why).port p).lends = (c.port p).lends := by
  rw [Event.count, Event.modPort_port_self]
  rfl

/-- A discard after the charge, where the port lends: the counter rises and the place is freed (R50). -/
theorem Event.discardCharged_eq {c : Event} {p : PortId} (hl : (c.port p).lends = true) (k : Key) (why : Counter) :
    (c.discardCharged p k why).toState = withPort c.toState p { c.port p with
        counters := countedUp (c.port p) why
        account := { (c.port p).account with
          pending := (c.port p).account.pending.put k ((c.port p).account.pending.get k + 1) } } ∧
      (c.discardCharged p k why).raised = c.raised ∧ (c.discardCharged p k why).freed = c.freed ++ [(p, k)] := by
  unfold Event.discardCharged Event.free
  rw [if_pos (by simp [Event.count_lends, hl]), Event.count, Event.modPort_modPort]
  exact ⟨rfl, rfl, rfl⟩

/-- A charged cell discarded: its credit moves from outstanding to pending, and its key is listed (R26, R27, R50, R51). -/
theorem Event.finish_discardCharged (hl : (s.port p).lends = true) (why : Counter) :
    ((Event.charged s p k g).discardCharged p k why).finish =
      { withPort s p { s.port p with
          counters := countedUp (s.port p) why
          account := { (s.port p).account with
            outstanding := (s.port p).account.outstanding.put k ((s.port p).account.outstanding.get k - 1)
            pending := (s.port p).account.pending.put k ((s.port p).account.pending.get k + 1)
            returnList := joinKey (s.port p).account.returnList k } } with groups := g } := by
  have hlends : ((Event.charged s p k g).port p).lends = true := by
    rw [Event.charged_port_self]
    exact hl
  obtain ⟨hstate, hraised, hfreed⟩ := Event.discardCharged_eq hlends k why
  rw [Event.finish_of_freed_one _ hfreed, hraised, hstate, withPort_port_self, withPort_withPort, Event.charged_withPort,
    Event.charged_port_self]
  rfl

/-- A charged cell that joins its input and is counted accepted, before any output takes note of it (R30). -/
theorem Event.charged_joined (f : Port → Port) :
    (((Event.charged s p k g).modPort p f).count p .accepted).toState =
      { withPort s p ((f ((s.port p).charged k)).count .accepted 1) with groups := g } := by
  rw [Event.count, Event.modPort_modPort, Event.modPort_toState, Event.charged_withPort, Event.charged_port_self]

/-- A charged cell that has joined its input touches no monitor before its outputs take note of it (R30). -/
theorem Event.charged_joined_monitor {f : Port → Port} (hf : ∀ x, (f x).monitor = x.monitor) (o : PortId) :
    ((((Event.charged s p k g).modPort p f).count p .accepted).port o).monitor = (s.port o).monitor := by
  rw [Event.count, Event.modPort_modPort, Event.modPort_port, ← Event.charged_monitor s p k g o]
  split
  · exact hf _
  · rfl

end

/-! ### Past steps 1 to 5 of the rule (R26) -/

/-- The receiver hands the cell to the classifier, whose steps 1 to 5 let it pass, and its key is `k` (R24, R25, R26). -/
structure State.Passes (s : State) (p : PortId) (data : List Byte) (closed : CellEnd) (k : Key) : Prop where
  locked : (s.port p).rx.locked = true
  up : (s.port p).rx.link = .up
  enabled : (s.port p).admin = .enabled
  header : headerError data closed = false
  epoch : (readHeader data).epoch = (s.port p).epoch
  hasKey : (readHeader data).HasKey k

section

variable {s : State} {p : PortId} {data : List Byte} {closed : CellEnd} {k : Key} (hc : s.Passes p data closed k)
include hc

theorem State.Passes.lends : (s.port p).lends = true := (Port.lends_iff _).2 ⟨hc.up, hc.enabled⟩

/-- What is left of the rule: the credit of the key, the guard, and the place of the cell. -/
theorem State.Passes.exec_eq :
    exec (.cellReceptionComplete p data closed) s = .next (Event.finish
      (if (s.port p).account.outstanding.get k = 0 then ((Event.start s).count p .overdraft).guardFault p .overdraft
      else if (s.port p).guard.state = .frozen ∧ (s.port p).guard.tolerate = false then
        (Event.charged s p k s.groups).discardCharged p k .frozen
      else (Event.charged s p k s.groups).place p (readHeader data) (readPayload data))) := by
  obtain ⟨hk, hl, ha, he, hp, hkey⟩ := hc
  rw [execCellReceptionComplete_locked hk]
  unfold Event.classify
  dsimp only [Event.start_toState]
  rw [if_neg (not_not.2 hl), if_neg (not_not.2 ha), if_neg (by simp [he]), if_neg (not_not.2 hp), if_neg hkey.not_badDest,
    hkey.key_eq]
  rfl

theorem State.Passes.exec_overdraft (ho : (s.port p).account.outstanding.get k = 0) :
    exec (.cellReceptionComplete p data closed) s =
      .next (((Event.start s).count p .overdraft).guardFault p .overdraft).finish := by
  rw [hc.exec_eq, if_pos ho]

theorem State.Passes.exec_frozen (ho : (s.port p).account.outstanding.get k ≠ 0)
    (hg : (s.port p).guard.state = .frozen ∧ (s.port p).guard.tolerate = false) :
    exec (.cellReceptionComplete p data closed) s =
      .next ((Event.charged s p k s.groups).discardCharged p k .frozen).finish := by
  rw [hc.exec_eq, if_neg ho, if_pos hg]

theorem State.Passes.exec_placed (ho : (s.port p).account.outstanding.get k ≠ 0)
    (hg : ¬ ((s.port p).guard.state = .frozen ∧ (s.port p).guard.tolerate = false)) :
    exec (.cellReceptionComplete p data closed) s =
      .next ((Event.charged s p k s.groups).place p (readHeader data) (readPayload data)).finish := by
  rw [hc.exec_eq, if_neg ho, if_neg hg]

end

/-! ### Waiting counts, flags and checks of several outputs (R30, R186) -/

theorem flagEdge_congr {s t : State} {o : PortId} (h : (t.port o).monitor = (s.port o).monitor) (n : Nat) :
    flagEdge t o n = flagEdge s o n := by
  unfold flagEdge flagAt
  rw [h]

/-- The waiting count of one output is no other's. -/
theorem waited_monitor_ne (s : State) {o q : PortId} (n : Nat) (h : q ≠ o) :
    ((waited s o n).port q).monitor = (s.port q).monitor := by
  simp [waited, State.port, h]

/-- Several outputs have their waiting counts raised, each once: what they become is told by their monitors before. -/
theorem Event.foldl_setWaiting_eq (s : State) {l : List PortId} (hl : l.Nodup) {c : Event}
    (hm : ∀ o ∈ l, (c.port o).monitor = (s.port o).monitor) :
    let r := l.foldl (fun c o => c.setWaiting o ((c.port o).monitor.waiting + 1)) c
    r.toState = l.foldl (fun t o => waited t o ((s.port o).monitor.waiting + 1)) c.toState ∧
      r.raised = c.raised ++ l.flatMap (fun o => flagEdge s o ((s.port o).monitor.waiting + 1)) ∧ r.freed = c.freed := by
  induction l generalizing c with
  | nil => simp
  | cons o l ih =>
    obtain ⟨ho, hl⟩ := List.nodup_cons.1 hl
    have hmo := hm o (.head _)
    obtain ⟨hstate, hraised, hfreed⟩ := c.setWaiting_eq o ((s.port o).monitor.waiting + 1)
    rw [flagEdge_congr hmo] at hraised
    have hrest : ∀ q ∈ l, ((c.setWaiting o ((s.port o).monitor.waiting + 1)).port q).monitor = (s.port q).monitor := by
      intro q hq
      rw [hstate, waited_monitor_ne _ _ (ne_of_mem_of_not_mem hq ho)]
      exact hm q (.tail _ hq)
    obtain ⟨ihs, ihr, ihf⟩ := ih hl hrest
    simp only [List.foldl_cons, List.flatMap_cons, hmo, ihs, ihr, ihf, hstate, hraised, hfreed, List.append_assoc,
      and_self]

/-- The checks of several arbiters, one after the other, raise and free nothing (R102). -/
theorem Event.foldl_pickCheck_eq (l : List PortId) (c : Event) :
    let r := l.foldl (fun c o => c.pickCheck o) c
    r.toState = l.foldl afterPick c.toState ∧ r.raised = c.raised ∧ r.freed = c.freed := by
  induction l generalizing c with
  | nil => exact ⟨rfl, rfl, rfl⟩
  | cons o l ih =>
    obtain ⟨hstate, hraised, hfreed⟩ := c.pickCheck_eq o
    obtain ⟨ihs, ihr, ihf⟩ := ih (c.pickCheck o)
    exact ⟨ihs.trans (congrArg (l.foldl afterPick) hstate), ihr.trans hraised, ihf.trans hfreed⟩

/-- Notices that stand in the order of R186 are taken as they stand. -/
theorem sortNotices_of_pairwise {l : List Notice} (h : l.Pairwise fun a b => noticeBefore a b = true) :
    sortNotices l = l := by
  induction l with
  | nil => rfl
  | cons n l ih =>
    obtain ⟨hn, hl⟩ := List.pairwise_cons.1 h
    show insertNotice n (sortNotices l) = _
    rw [ih hl]
    cases l with
    | nil => rfl
    | cons m l => exact if_pos (hn m (.head _))

theorem mem_flagEdge {s : State} {o : PortId} {n : Nat} {x : Notice} (h : x ∈ flagEdge s o n) :
    ∃ b, x = .congestion o b := by
  unfold flagEdge at h
  split at h
  · cases h
  · exact ⟨_, List.mem_singleton.1 h⟩

/-- The outputs of a set stand in rising order. -/
theorem toList_pairwise_lt (x : OutSet) : x.toList.Pairwise (· < ·) :=
  (by decide : allPorts.Pairwise (· < ·)).filter _

/-- The CONGESTION edges of a set of outputs, taken in rising order, stand in the order of R186. -/
theorem sortNotices_flagEdges (s : State) (x : OutSet) (n : PortId → Nat) :
    sortNotices (x.toList.flatMap fun o => flagEdge s o (n o)) = x.toList.flatMap fun o => flagEdge s o (n o) := by
  refine sortNotices_of_pairwise (List.pairwise_flatMap.2 ⟨fun o _ => ?_, ?_⟩)
  · unfold flagEdge
    split <;> simp
  · refine (toList_pairwise_lt x).imp fun {o q} hlt a ha b hb => ?_
    obtain ⟨_, rfl⟩ := mem_flagEdge ha
    obtain ⟨_, rfl⟩ := mem_flagEdge hb
    simp [noticeBefore, Notice.pair, hlt.le]

/-! ### Acceptance (R28, R29, R30) -/

/-- One output takes note of a cell that has joined a queue toward it. -/
theorem Event.finish_noted {c : Event} (hr : c.raised = []) (hf : c.freed = []) (o : PortId) (n : Nat) :
    ((c.setWaiting o n).pickCheck o).finish = notify (afterPick (waited c.toState o n) o) (flagEdge c.toState o n) := by
  obtain ⟨hstate, hraised, hfreed⟩ := c.setWaiting_eq o n
  obtain ⟨pstate, praised, pfreed⟩ := (c.setWaiting o n).pickCheck_eq o
  have hsort : sortNotices (flagEdge c.toState o n) = flagEdge c.toState o n := by
    unfold flagEdge
    split <;> rfl
  rw [Event.finish_of_freed_nil _ (pfreed.trans (hfreed.trans hf)), pstate, praised, hstate, hraised, hr, List.nil_append,
    hsort]

/-- A set of outputs takes note of a cell that has joined the replication queue for them. -/
theorem Event.finish_notedAll (s : State) {c : Event} (hr : c.raised = []) (hf : c.freed = [])
    (hm : ∀ o, (c.port o).monitor = (s.port o).monitor) (x : OutSet) :
    (x.toList.foldl (fun c o => c.pickCheck o)
      (x.toList.foldl (fun c o => c.setWaiting o ((c.port o).monitor.waiting + 1)) c)).finish =
      notify (x.toList.foldl afterPick
        (x.toList.foldl (fun t o => waited t o ((s.port o).monitor.waiting + 1)) c.toState))
        (x.toList.flatMap fun o => flagEdge s o ((s.port o).monitor.waiting + 1)) := by
  obtain ⟨hstate, hraised, hfreed⟩ := Event.foldl_setWaiting_eq s (OutSet.nodup_toList x) (c := c) fun o _ => hm o
  obtain ⟨pstate, praised, pfreed⟩ := Event.foldl_pickCheck_eq x.toList
    (x.toList.foldl (fun c o => c.setWaiting o ((c.port o).monitor.waiting + 1)) c)
  rw [Event.finish_of_freed_nil _ (pfreed.trans (hfreed.trans hf)), pstate, praised, hstate, hraised, hr, List.nil_append,
    sortNotices_flagEdges]

/-- The input with the entry of a unicast cell at the tail of its queue (R28, R45). -/
def Port.joinCell (x : Port) (o : PortId) (e : CellEntry) : Port := x.putQueue o e.cls (x.queue o e.cls ++ [e])

/-- The input with the entry of a multicast cell at the tail of its replication queue (R29, R88). -/
def Port.joinCopies (x : Port) (e : CopyEntry) : Port := { x with copies := x.copies ++ [e] }

theorem Event.acceptCell_eq (c : Event) (p d : PortId) (h : Header) (payload : List Byte) :
    let joined := (c.modPort p (Port.joinCell · d (h.cellEntry payload))).count p .accepted
    c.acceptCell p d h payload = (joined.setWaiting d ((joined.port d).monitor.waiting + 1)).pickCheck d := rfl

theorem Event.acceptCopies_eq (c : Event) (p : PortId) (h : Header) (payload : List Byte) (remaining : OutSet) :
    c.acceptCopies p h payload remaining =
      remaining.toList.foldl (fun c o => c.pickCheck o)
        (remaining.toList.foldl (fun c o => c.setWaiting o ((c.port o).monitor.waiting + 1))
          ((c.modPort p (Port.joinCopies · (h.copyEntry payload remaining))).count p .accepted)) := rfl

/-- A charged unicast cell is accepted (R28, R30, R45). -/
theorem Event.finish_acceptCell (s : State) (p d : PortId) (h : Header) (payload : List Byte) (k : Key) :
    ((Event.charged s p k s.groups).acceptCell p d h payload).finish =
      notify (afterPick (waited
        (withPort s p ((((s.port p).charged k).joinCell d (h.cellEntry payload)).count .accepted 1))
        d ((s.port d).monitor.waiting + 1)) d) (flagEdge s d ((s.port d).monitor.waiting + 1)) := by
  have hm := Event.charged_joined_monitor s p k s.groups (f := (Port.joinCell · d (h.cellEntry payload))) (fun _ => rfl) d
  rw [Event.acceptCell_eq, hm, Event.finish_noted rfl rfl, flagEdge_congr hm, Event.charged_joined]
  rfl

/-- A charged multicast cell is accepted (R29, R30, R88). -/
theorem Event.finish_acceptCopies (s : State) (p : PortId) (h : Header) (payload : List Byte) (remaining : OutSet)
    (g : Table GroupSet 256) :
    ((Event.charged s p keyM g).acceptCopies p h payload remaining).finish =
      notify (remaining.toList.foldl afterPick
        (remaining.toList.foldl (fun t o => waited t o ((s.port o).monitor.waiting + 1))
          { withPort s p ((((s.port p).charged keyM).joinCopies (h.copyEntry payload remaining)).count .accepted 1) with
            groups := g }))
        (remaining.toList.flatMap fun o => flagEdge s o ((s.port o).monitor.waiting + 1)) := by
  have hm := Event.charged_joined_monitor s p keyM g (f := (Port.joinCopies · (h.copyEntry payload remaining))) fun _ => rfl
  rw [Event.acceptCopies_eq, Event.finish_notedAll s rfl rfl hm, Event.charged_joined]

/-! ### The place of a charged cell (R28, R29) -/

section

variable {c : Event} {h : Header} {d : PortId} {w : Fin 4}

theorem Event.place_unicast (hm : h.multicast = false) (hd : h.port = portByte d) (p : PortId) (payload : List Byte) :
    c.place p h payload = if (c.port d).available then c.acceptCell p d h payload
      else c.discardCharged p (unicastKey d h.cls) .unavailable := by
  have hlt : h.port.toNat < 24 := by rw [hd, portByte_toNat]; exact d.isLt
  have ho : (⟨h.port.toNat, hlt⟩ : PortId) = d := Fin.ext (by simp [hd])
  unfold Event.place
  rw [if_neg (by simp [hm]), dif_pos hlt, ho]

theorem Event.place_groupMiss (hm : h.multicast = true)
    (hg : (c.groups.get (groupSet h.group.toNat)).hit (groupTag h.group.toNat) h.cls = none) (p : PortId)
    (payload : List Byte) : c.place p h payload = c.discardCharged p keyM .groupMiss := by
  unfold Event.place
  rw [if_pos hm]
  dsimp only
  rw [hg]

/-- A hit counts in the table, and the available outputs of the fanout decide (R29, R71). -/
theorem Event.place_hit (hm : h.multicast = true)
    (hg : (c.groups.get (groupSet h.group.toNat)).hit (groupTag h.group.toNat) h.cls = some w) {remaining : OutSet}
    (hr : ∀ o, remaining.has o =
      (((c.groups.get (groupSet h.group.toNat)).ways.get w).fanout.has o && (c.port o).available))
    (p : PortId) (payload : List Byte) :
    let looked : Event := { c with
      groups := c.groups.put (groupSet h.group.toNat) ((c.groups.get (groupSet h.group.toNat)).hitWay w) }
    c.place p h payload = if remaining = OutSet.empty then looked.discardCharged p keyM .emptyFanout
      else looked.acceptCopies p h payload remaining := by
  have hset : OutSet.inter ((c.groups.get (groupSet h.group.toNat)).ways.get w).fanout c.availableSet = remaining :=
    OutSet.ext_has fun o => by rw [OutSet.has_inter, State.availableSet, OutSet.has_ofPred, hr]
  unfold Event.place
  rw [if_pos hm]
  dsimp only
  rw [hg]
  dsimp only
  rw [hset]

end

end Sys2Proof.Machine

namespace Sys2Proof.Proofs

open Sys2Proof Sys2Proof.Machine Sys2Proof.Safety

/-- Settles O13: each of the four steps is a branch of the rule that counts, and the last one also a fault. -/
theorem cellsDiscardedWithoutCharge : Obligations.CellsDiscardedWithoutCharge := by
  intro s p data closed x cell h hk
  refine ⟨fun hl => ?_, fun hl ha => ?_, fun hl ha he hp => ?_, fun hl ha he hp hd ho => ?_⟩
  · rw [execCellReceptionComplete_locked hk, Event.classify_notUp (c := Event.start s) data closed hl, Event.finish_count]
  · rw [execCellReceptionComplete_locked hk, Event.classify_admin (c := Event.start s) data closed hl ha,
      Event.finish_count]
  · rw [execCellReceptionComplete_locked hk, Event.classify_staleEpoch (c := Event.start s) hl ha he hp,
      Event.finish_count]
  · have passes : s.Passes p data closed h.key := ⟨hk, hl, ha, he, hp, Header.hasKey_key hd⟩
    rw [passes.exec_overdraft ho, Event.finish_faultCounted]

/-- Settles O15: the guard discards before any lookup; past it, the cell's place is a discard that frees its credit. -/
theorem cellsDiscardedAfterCharge : Obligations.CellsDiscardedAfterCharge := by
  intro s p data closed x cell h g tag moved hk hl ha he hp
  have passes {k : Key} (hkey : h.HasKey k) : s.Passes p data closed k := ⟨hk, hl, ha, he, hp, hkey⟩
  refine ⟨fun k hkey ho hf ht => ?_, fun hg => ⟨fun d hm hd ho hav => ?_, fun hm ho hmiss => ?_, fun w hm ho hhit hno => ?_⟩⟩
  · rw [(passes hkey).exec_frozen ho ⟨hf, ht⟩, Event.finish_discardCharged s p k _ (passes hkey).lends]
    rfl
  · have hc := passes (.inr ⟨hm, d, hd, rfl⟩)
    rw [hc.exec_placed ho hg, Event.place_unicast hm hd, Event.charged_available, if_neg (by simp [hav]),
      Event.finish_discardCharged s p _ _ hc.lends]
    rfl
  · have hc := passes (.inl ⟨hm, rfl⟩)
    rw [hc.exec_placed ho hg, Event.place_groupMiss (c := Event.charged s p keyM s.groups) hm hmiss, Event.finish_discardCharged s p _ _ hc.lends]
    rfl
  · have hc := passes (.inl ⟨hm, rfl⟩)
    have hr (o : PortId) : OutSet.empty.has o =
        ((g.ways.get w).fanout.has o && ((Event.charged s p keyM s.groups).port o).available) := by
      rw [Event.charged_available, OutSet.has_empty]
      cases hf : (g.ways.get w).fanout.has o
      · rfl
      · simp [hno o hf]
    rw [hc.exec_placed ho hg, Event.place_hit (c := Event.charged s p keyM s.groups) hm hhit hr, if_pos rfl]
    exact congrArg _ (Event.finish_discardCharged s p keyM _ hc.lends .emptyFanout)

/-- Settles O16: past the guard and with an available output, the cell joins its queue and the output takes note. -/
theorem unicastCellAccepted : Obligations.UnicastCellAccepted := by
  intro s p d data closed x h k hk hl ha he hp hm hd ho hg hav entry joined
  have hc : s.Passes p data closed k := ⟨hk, hl, ha, he, hp, .inr ⟨hm, d, hd, rfl⟩⟩
  rw [hc.exec_placed ho hg, Event.place_unicast hm hd, Event.charged_available, if_pos hav]
  exact congrArg _ (Event.finish_acceptCell s p d h (readPayload data) k)

/-- Settles O17: past the guard and with a hit, the entry joins the replication queue and the outputs it is for take note. -/
theorem multicastCellAccepted : Obligations.MulticastCellAccepted := by
  intro s p data closed w remaining x h set g hk hl ha he hp hm ho hg hhit hr hne entry joined raised
  have hc : s.Passes p data closed keyM := ⟨hk, hl, ha, he, hp, .inl ⟨hm, rfl⟩⟩
  have hr' (o : PortId) : remaining.has o =
      ((g.ways.get w).fanout.has o && ((Event.charged s p keyM s.groups).port o).available) := by
    rw [Event.charged_available, hr]
  rw [hc.exec_placed ho hg, Event.place_hit (c := Event.charged s p keyM s.groups) hm hhit hr', if_neg hne]
  exact congrArg _ (Event.finish_acceptCopies s p h (readPayload data) remaining _)

end Sys2Proof.Proofs

/-! # Credits are conserved (O56)

One account of what an operation can do to the credits of a port: it leaves them (`Port.Quiet`), it moves them within the sum
of R49 (`Port.Shifts`), or it makes the account anew. -/

namespace Sys2Proof.Machine

open Sys2Proof Sys2Proof.Safety

/-! ### Completed CREDIT words (R53) -/

/-- The counts that the entries of a CREDIT word give key `k` (R52). -/
def creditsOf (l : List (Key × Nat)) (k : Key) : Nat := ((l.filter fun y => y.1 = k).map Prod.snd).sum

theorem creditsOf_cons (x : Key × Nat) (l : List (Key × Nat)) (k : Key) :
    creditsOf (x :: l) k = (if x.1 = k then x.2 else 0) + creditsOf l k := by
  unfold creditsOf
  by_cases h : x.1 = k <;> simp [h]

/-- A key that the entries do not name gets nothing. -/
theorem creditsOf_of_not_named {l : List (Key × Nat)} {k : Key} (h : k ∉ l.map Prod.fst) : creditsOf l k = 0 := by
  induction l with
  | nil => rfl
  | cons x l ih =>
    rw [List.map_cons, List.mem_cons, not_or] at h
    rw [creditsOf_cons, if_neg (Ne.symm h.1), ih h.2]

/-- Entries that name each key once give a key no more than covers each of them. -/
theorem creditsOf_le {f : Key → Nat} {l : List (Key × Nat)} (hl : (l.map Prod.fst).Nodup) (h : ∀ x ∈ l, x.2 ≤ f x.1)
    (k : Key) : creditsOf l k ≤ f k := by
  induction l with
  | nil => exact Nat.zero_le _
  | cons x l ih =>
    rw [List.map_cons, List.nodup_cons] at hl
    rw [creditsOf_cons]
    split
    · next hk => rw [← hk, creditsOf_of_not_named hl.1, Nat.add_zero]; exact h x (.head _)
    · rw [Nat.zero_add]; exact ih hl.2 fun y hy => h y (.tail _ hy)

/-- The account after the entries of a CREDIT word that names each key once have moved, whole (R53). -/
theorem Account.foldl_credit {l : List (Key × Nat)} (hl : (l.map Prod.fst).Nodup) (a : Account) :
    l.foldl Account.credit a = { a with
      pending := .ofFn fun k => a.pending.get k - creditsOf l k
      outstanding := .ofFn fun k => a.outstanding.get k + creditsOf l k
      returnList := a.returnList.filter fun k =>
        !decide (k ∈ l.map Prod.fst ∧ a.pending.get k - creditsOf l k = 0) } := by
  have same (t : Table Nat 49) : Table.ofFn t.get = t := Table.ext_get fun k => by simp
  induction l generalizing a with
  | nil => simp [creditsOf, same]
  | cons x l ih =>
    rw [List.map_cons, List.nodup_cons] at hl
    have hx : creditsOf l x.1 = 0 := creditsOf_of_not_named hl.1
    rw [List.foldl_cons, ih hl.2]
    simp only [Account.credit, Account.mk.injEq, and_true]
    refine ⟨Table.ext_get fun k => ?_, Table.ext_get fun k => ?_, ?_⟩
    · simp only [Table.get_ofFn, Table.get_put, creditsOf_cons]
      by_cases hk : k = x.1
      · subst hk; simp [hx]
      · simp [hk, Ne.symm hk]
    · simp only [Table.get_ofFn, Table.get_put, creditsOf_cons]
      by_cases hk : k = x.1
      · subst hk; simp [hx]
      · simp [hk, Ne.symm hk]
    · have keep {k : Key} (hk : k ≠ x.1) :
          (k ∈ l.map Prod.fst ∧ (a.credit x).pending.get k - creditsOf l k = 0) ↔
            (k ∈ (x :: l).map Prod.fst ∧ a.pending.get k - creditsOf (x :: l) k = 0) := by
        simp only [Account.credit, Table.get_put_ne _ _ hk, creditsOf_cons, if_neg (Ne.symm hk), Nat.zero_add,
          List.map_cons, List.mem_cons, hk, false_or]
      have own : (x.1 ∈ (x :: l).map Prod.fst ∧ a.pending.get x.1 - creditsOf (x :: l) x.1 = 0) ↔
          a.pending.get x.1 - x.2 = 0 := by
        simp [creditsOf_cons, hx]
      split
      · next hz =>
        rw [List.filter_filter]
        refine List.filter_congr fun k _ => ?_
        by_cases hk : k = x.1
        · subst hk
          simp only [ne_eq, not_true_eq_false, decide_false, Bool.and_false, decide_eq_true (own.2 hz), Bool.not_true]
        · simp only [ne_eq, hk, not_false_eq_true, decide_true, Bool.and_true]
          exact congrArg _ (decide_eq_decide.2 (keep hk))
      · next hz =>
        refine List.filter_congr fun k _ => congrArg _ (decide_eq_decide.2 ?_)
        by_cases hk : k = x.1
        · subst hk; rw [own]; simp only [hl.1, false_and, hz]
        · exact keep hk

end Sys2Proof.Machine

namespace Sys2Proof.Machine

open Sys2Proof Sys2Proof.Safety

/-! ### The credits of one port -/

/-- The laws of the credits of a port in the course of an event, `noted` being the keys under which a place was freed in it,
which join the return list as the event closes (R51). -/
structure Port.Conserves (noted : Key → Prop) (x : Port) : Prop where
  credit : CreditLaw x
  withdrawn : WithdrawnLaw x
  capacity : CapacityLaw x
  nodup : x.account.returnList.Nodup
  listed : ∀ k, k ∈ x.account.returnList ∨ noted k ↔ x.account.pending.get k ≠ 0
  word : WordLaw x.account

/-- The laws of the credits of a port between two events (R49, R51, R53, R59). -/
def Port.CreditsLawful (x : Port) : Prop :=
  CreditLaw x ∧ WithdrawnLaw x ∧ CapacityLaw x ∧ ReturnLaw x.account ∧ WordLaw x.account

/-- With no key noted, the laws in the course of an event are those between two events. -/
theorem Port.conserves_iff {noted : Key → Prop} (hn : ∀ k, ¬ noted k) (x : Port) : x.Conserves noted ↔ x.CreditsLawful := by
  constructor
  · rintro ⟨hc, hw, hcap, hnd, hl, hword⟩
    exact ⟨hc, hw, hcap, ⟨hnd, fun k => by simpa [hn k] using hl k⟩, hword⟩
  · rintro ⟨hc, hw, hcap, ⟨hnd, hl⟩, hword⟩
    exact ⟨hc, hw, hcap, hnd, fun k => by simpa [hn k] using hl k, hword⟩

/-- A port that lends nothing has no key noted (R50). -/
theorem Port.Conserves.not_noted {noted : Key → Prop} {x : Port} (h : x.Conserves noted) (hl : x.lends = false) (k : Key) :
    ¬ noted k := fun hk => (h.listed k).1 (.inr hk) ((h.withdrawn hl).1 k).2

/-- The port lends nothing, and has nothing lent or listed; a credit word on its link is void (R59, R54). -/
theorem Port.creditsLawful_of_withdrawn {x : Port} (hl : x.lends = false) (hc : CapacityLaw x)
    (ho : x.account.outstanding = .fill 0) (hp : x.account.pending = .fill 0) (hr : x.account.returnList = [])
    (hs : x.account.resyncPending = false) (hw : ∀ w ∈ x.account.inFlight, w.void = true) : x.CreditsLawful := by
  refine ⟨fun h => ?_, fun _ => ⟨fun k => ?_, hr, hs, hw⟩, hc, ⟨?_, fun k => ?_⟩, fun w hwm hv => ?_⟩
  · rw [hl] at h; cases h
  · rw [ho, hp]; exact ⟨Table.get_fill _ _, Table.get_fill _ _⟩
  · rw [hr]; exact .nil
  · rw [hr, hp]; simp
  · rw [hw w hwm] at hv; cases hv

theorem Account.voided_void {a : Account} : ∀ w ∈ a.voided, w.void = true := by
  intro w hw
  obtain ⟨v, -, rfl⟩ := Option.map_eq_some_iff.1 hw
  rfl

/-- Occupancy is within the capacity where the queues are (R44, R86). -/
theorem capacityLaw_mono {x y : Port} (h : CapacityLaw x) (hle : ∀ k, y.occupancy k ≤ x.occupancy k) : CapacityLaw y :=
  fun k => (hle k).trans (h k)

/-- A credit issue makes the account of a port that lends anew (R55). -/
theorem Port.issue_creditsLawful {x : Port} (hc : CapacityLaw x) (hl : x.lends = true) : x.issue.CreditsLawful := by
  have hspace (k : Key) : x.issue.account.pending.get k = capacity k - x.occupancy k := Table.get_ofFn _ _
  refine ⟨fun _ k => ?_, fun h => ?_, hc, ⟨?_, fun k => ?_⟩, fun w hw hv => ?_⟩
  · have hle := hc k
    have ho : x.issue.account.outstanding.get k = 0 := Table.get_fill _ _
    rw [hspace, ho]
    show x.occupancy k + 0 + _ = _
    omega
  · rw [show x.issue.lends = x.lends from rfl, hl] at h; cases h
  · exact List.Nodup.filter _ nodup_allKeys
  · show k ∈ allKeys.filter (fun k => x.freeSpace.get k != 0) ↔ x.freeSpace.get k ≠ 0
    simp [mem_allKeys]
  · rw [Account.voided_void w hw] at hv; cases hv

/-- A CREDIT word taken at a boundary names keys of the return list with their pending counts (R52). -/
theorem Port.CreditsLawful.takesWord {x y : Port} (h : x.CreditsLawful) (hl : x.lends = true) (hly : y.lends = true)
    (hocc : ∀ k, y.occupancy k = x.occupancy k)
    (ha : y.account = { x.account with
      inFlight := some { epoch := x.epoch, entries := x.account.wordEntries, void := false } }) : y.CreditsLawful := by
  obtain ⟨hc, -, hcap, hr, -⟩ := h
  refine ⟨fun _ k => ?_, fun h => ?_, capacityLaw_mono hcap fun k => (hocc k).le, ?_, fun w hw _ => ?_⟩
  · rw [hocc, ha]; exact hc hl k
  · rw [hly] at h; cases h
  · rw [ha]; exact hr
  · rw [ha] at hw ⊢
    obtain rfl := Option.some.inj hw
    have hkeys : (x.account.wordEntries.map Prod.fst) = x.account.returnList.take 4 := by
      simp [Account.wordEntries, Function.comp_def]
    refine ⟨hkeys ▸ hr.1.sublist (List.take_sublist _ _), fun y hy => ?_⟩
    obtain ⟨k, -, rfl⟩ := List.mem_map.1 hy
    exact le_rfl

/-- The record of a credit word is no matter of what stands under the keys (R53, R54). -/
theorem Port.CreditsLawful.wordCleared {x y : Port} (h : x.CreditsLawful) (hl : y.lends = x.lends)
    (hocc : ∀ k, y.occupancy k = x.occupancy k) (ha : y.account = { x.account with inFlight := none }) :
    y.CreditsLawful := by
  obtain ⟨hc, hw, hcap, hr, -⟩ := h
  refine ⟨fun h k => ?_, fun h => ?_, capacityLaw_mono hcap fun k => (hocc k).le, ha ▸ hr, fun w hwm => ?_⟩
  · rw [hocc, ha]; exact hc (hl ▸ h) k
  · obtain ⟨hz, hrl, hrp, -⟩ := hw (hl ▸ h)
    rw [ha]
    exact ⟨hz, hrl, hrp, nofun⟩
  · rw [ha] at hwm; cases hwm

/-- The counts of an unvoided word, which are covered, move from pending to outstanding, and the keys left at 0 leave the list
(R51, R53). -/
theorem Port.CreditsLawful.wordMoved {x y : Port} {w : CreditWord} (h : x.CreditsLawful) (hf : x.account.inFlight = some w)
    (hv : w.void = false) (hl : y.lends = x.lends) (hocc : ∀ k, y.occupancy k = x.occupancy k)
    (ha : y.account = { w.entries.foldl Account.credit x.account with inFlight := none }) : y.CreditsLawful := by
  obtain ⟨hc, hw, hcap, hr, hword⟩ := h
  obtain ⟨hnd, hcov⟩ := hword w hf hv
  have hle (k : Key) : creditsOf w.entries k ≤ x.account.pending.get k := creditsOf_le hnd hcov k
  have hlends : x.lends = true := by
    by_contra hx
    have := (hw (by simpa using hx)).2.2.2 w hf
    rw [hv] at this
    cases this
  rw [Account.foldl_credit hnd] at ha
  refine ⟨fun _ k => ?_, fun h => ?_, capacityLaw_mono hcap fun k => (hocc k).le, ?_, fun v hvm => ?_⟩
  · have := hc hlends k
    have := hle k
    rw [hocc, ha]
    simp only [Table.get_ofFn]
    omega
  · rw [hl, hlends] at h; cases h
  · rw [ha]
    refine ⟨hr.1.filter _, fun k => ?_⟩
    simp only [List.mem_filter, Table.get_ofFn, Bool.not_eq_true', decide_eq_false_iff_not, not_and, hr.2 k]
    constructor
    · rintro ⟨hp, hk⟩
      by_cases hm : k ∈ w.entries.map Prod.fst
      · exact hk hm
      · rwa [creditsOf_of_not_named hm, Nat.sub_zero]
    · exact fun hp => ⟨by omega, fun _ => hp⟩
  · rw [ha] at hvm; cases hvm

/-- The account of a completed CREDIT word keeps the laws (R53, R54). -/
theorem Port.CreditsLawful.wordDone {x y : Port} (h : x.CreditsLawful) (hl : y.lends = x.lends)
    (hocc : ∀ k, y.occupancy k = x.occupancy k) (ha : y.account = x.account.wordDone) : y.CreditsLawful := by
  unfold Account.wordDone at ha
  split at ha
  · next hn => exact h.wordCleared hl hocc (by rw [ha, ← hn])
  · next w hf =>
    split at ha
    · exact h.wordCleared hl hocc ha
    · next hv => exact h.wordMoved hf (by simpa using hv) hl hocc ha

/-! ### Credits that move -/

/-- Credits move from `x` to `y` within the sum of R49, no pending count falling; a port that does not lend keeps its
account. -/
structure Port.Shifts (x y : Port) : Prop where
  lends : y.lends = x.lends
  lending : x.lends = true → ∀ k, y.occupancy k + y.account.outstanding.get k + y.account.pending.get k =
    x.occupancy k + x.account.outstanding.get k + x.account.pending.get k
  idle : x.lends = false → y.account = x.account ∧ ∀ k, y.occupancy k ≤ x.occupancy k
  pending : ∀ k, x.account.pending.get k ≤ y.account.pending.get k
  returnList : y.account.returnList = x.account.returnList
  inFlight : y.account.inFlight = x.account.inFlight

theorem Port.Shifts.trans {x y z : Port} (h : x.Shifts y) (h' : y.Shifts z) : x.Shifts z where
  lends := h'.lends.trans h.lends
  lending hl k := (h'.lending (h.lends.trans hl) k).trans (h.lending hl k)
  idle hl :=
    have hy := h'.idle (h.lends.trans hl)
    ⟨hy.1.trans (h.idle hl).1, fun k => (hy.2 k).trans ((h.idle hl).2 k)⟩
  pending k := (h.pending k).trans (h'.pending k)
  returnList := h'.returnList.trans h.returnList
  inFlight := h'.inFlight.trans h.inFlight

/-- A port whose credits move keeps the laws, the keys whose pending counts rise being noted (R49, R50, R51). -/
theorem Port.Conserves.shifts {noted noted' : Key → Prop} {x y : Port} (hx : x.Conserves noted) (h : x.Shifts y)
    (hn : ∀ k, noted' k ↔ noted k ∨ x.account.pending.get k < y.account.pending.get k) : y.Conserves noted' := by
  have hcredit : CreditLaw y := fun hl k => by
    have hl := h.lends ▸ hl
    exact (h.lending hl k).trans (hx.credit hl k)
  refine ⟨hcredit, fun hl => ?_, fun k => ?_, h.returnList ▸ hx.nodup, fun k => ?_, fun w hw hv => ?_⟩
  · have hl := h.lends ▸ hl
    rw [(h.idle hl).1]
    exact hx.withdrawn hl
  · cases hl : x.lends
    · exact ((h.idle hl).2 k).trans (hx.capacity k)
    · have := hcredit (h.lends.trans hl) k
      omega
  · have hlisted := hx.listed k
    have hle := h.pending k
    rw [h.returnList, hn, ← or_assoc, hlisted]
    omega
  · obtain ⟨hnd, hcov⟩ := hx.word w (h.inFlight ▸ hw) hv
    exact ⟨hnd, fun e he => (hcov e he).trans (h.pending e.1)⟩

/-- The cells of `y` are those of `x`, as far as credits tell them: as many under each key, and no cell in service in `y`
that is not in service in `x`. -/
structure Port.Keeps (x y : Port) : Prop where
  occupancy : ∀ k, y.occupancy k = x.occupancy k
  service : ∀ v ∈ y.tx.service, ∃ w ∈ x.tx.service, w.src = v.src

theorem Port.Keeps.of_eq {x y : Port} (hq : y.queues = x.queues) (hc : y.copies = x.copies)
    (hs : y.tx.service = none ∨ y.tx.service.map (·.src) = x.tx.service.map (·.src)) : x.Keeps y where
  occupancy := Port.occupancy_congr hq hc
  service v hv := by
    rcases hs with h | h
    · rw [h] at hv; cases hv
    · have : x.tx.service.map (·.src) = some v.src := by rw [← h, show y.tx.service = some v from hv]; rfl
      exact Option.map_eq_some_iff.1 this

/-- The credits of `y` are those of `x`. -/
structure Port.Quiet (x y : Port) : Prop extends x.Keeps y where
  lends : y.lends = x.lends
  account : y.account = x.account

theorem Port.Quiet.of_eq {x y : Port} (hr : y.rx.link = x.rx.link) (ha : y.admin = x.admin) (hacc : y.account = x.account)
    (hq : y.queues = x.queues) (hc : y.copies = x.copies)
    (hs : y.tx.service = none ∨ y.tx.service.map (·.src) = x.tx.service.map (·.src)) : x.Quiet y where
  toKeeps := .of_eq hq hc hs
  lends := by unfold Port.lends; rw [hr, ha]
  account := hacc

theorem Port.Quiet.refl (x : Port) : x.Quiet x := .of_eq rfl rfl rfl rfl rfl (.inr rfl)

theorem Port.Keeps.trans {x y z : Port} (h : x.Keeps y) (h' : y.Keeps z) : x.Keeps z where
  occupancy k := (h'.occupancy k).trans (h.occupancy k)
  service v hv := by
    obtain ⟨w, hw, hwv⟩ := h'.service v hv
    obtain ⟨u, hu, huw⟩ := h.service w hw
    exact ⟨u, hu, huw.trans hwv⟩

theorem Port.Quiet.trans {x y z : Port} (h : x.Quiet y) (h' : y.Quiet z) : x.Quiet z where
  toKeeps := h.toKeeps.trans h'.toKeeps
  lends := h'.lends.trans h.lends
  account := h'.account.trans h.account

theorem Port.Quiet.shifts {x y : Port} (h : x.Quiet y) : x.Shifts y where
  lends := h.lends
  lending _ k := by rw [h.occupancy, h.account]
  idle _ := ⟨h.account, fun k => (h.occupancy k).le⟩
  pending k := by rw [h.account]
  returnList := by rw [h.account]
  inFlight := by rw [h.account]

/-- A change of the transmitter that keeps the cell in service, or drops it, is quiet. -/
theorem Port.Quiet.of_tx {x : Port} {t : Transmitter}
    (hs : t.service = none ∨ t.service.map (·.src) = x.tx.service.map (·.src)) : x.Quiet { x with tx := t } :=
  .of_eq rfl rfl rfl rfl rfl hs

/-- Cells that leave a port give their places to the pending counts where the port lends (R50). -/
theorem Port.shifts_of_leaving {x y : Port} (hl : y.lends = x.lends) (hle : ∀ k, y.occupancy k ≤ x.occupancy k)
    (ha : y.account = if x.lends then { x.account with
      pending := .ofFn fun k => x.account.pending.get k + (x.occupancy k - y.occupancy k) } else x.account) :
    x.Shifts y := by
  refine ⟨hl, fun h k => ?_, fun h => ?_, fun k => ?_, ?_, ?_⟩
  · have := hle k
    rw [ha, if_pos h]
    simp only [Table.get_ofFn]
    omega
  · rw [ha, if_neg (by simp [h])]
    exact ⟨rfl, hle⟩
  · rw [ha]
    split
    · simp only [Table.get_ofFn]; omega
    · exact le_rfl
  all_goals rw [ha]; split <;> rfl

theorem Port.afterLoss_occupancy (o : PortId) (x : Port) (k : Key) :
    (x.afterLoss o).occupancy k = (x.loseOutput o).occupancy k := rfl

theorem Port.loseOutput_occupancy_le (o : PortId) (x : Port) (k : Key) :
    (x.loseOutput o).occupancy k ≤ x.occupancy k := by
  rcases key_cases k with rfl | ⟨q, c, rfl⟩
  · exact pruneCopies_length_le o x.copies
  · rw [Port.occupancy_unicast, Port.occupancy_unicast, Port.loseOutput_queue]
    split <;> simp

/-- The flush and prune of an output moves the credits of an input (R61, R95, R50). -/
theorem Port.afterLoss_shifts (o : PortId) (x : Port) : x.Shifts (x.afterLoss o) :=
  Port.shifts_of_leaving rfl (x.loseOutput_occupancy_le o) rfl

/-- The pending counts that rise in a flush and prune are those of the keys noted for it (R50, R51). -/
theorem Port.afterLoss_pending_lt (o : PortId) (x : Port) (k : Key) :
    x.account.pending.get k < (x.afterLoss o).account.pending.get k ↔ k ∈ x.lossKeys o := by
  have hle := x.loseOutput_occupancy_le o k
  unfold Port.afterLoss
  by_cases hl : x.lends = true
  · rw [Port.mem_lossKeys hl]
    simp only [hl, if_true, Table.get_ofFn]
    omega
  · simp [hl, Port.lossKeys]

/-- Places freed under a key move from the occupancy to the pending count (R50). -/
theorem Port.freePlaces_shifts {x y : Port} {key : Key} {n : Nat} (hl : y.lends = x.lends) (ha : y.account = x.account)
    (hocc : ∀ k, y.occupancy k + (if k = key then n else 0) = x.occupancy k) : x.Shifts (y.freePlaces key n) := by
  have hsame (k : Key) : (y.freePlaces key n).occupancy k = y.occupancy k := by
    rw [Port.freePlaces_eq]; rfl
  refine Port.shifts_of_leaving ((Port.freePlaces_lends _ _ _).trans hl) (fun k => ?_) ?_
  · have := hocc k
    rw [hsame]; omega
  · rw [Port.freePlaces_account, hl, ha]
    split
    · refine congrArg (fun t => ({ x.account with pending := t } : Account)) (Table.ext_get fun k => ?_)
      have := hocc k
      rw [Table.get_ofFn, Table.get_put, hsame]
      split at this <;> simp_all
      omega
    · rfl

end Sys2Proof.Machine

namespace Sys2Proof.Machine

open Sys2Proof Sys2Proof.Safety

/-! ### The head in service, told by occupancy (R46) -/

theorem headLaw_iff (s : State) (o : PortId) :
    HeadLaw s o ↔ ∀ v ∈ (s.port o).tx.service, ∀ i c, v.src = .cell i c → (s.port i).occupancy (unicastKey o c) ≠ 0 := by
  simp only [Port.occupancy_unicast, ne_eq, List.length_eq_zero_iff]
  constructor
  · intro h v hv i c hc
    cases c
    · exact (h v hv i).1 hc
    · exact (h v hv i).2 hc
  · exact fun h v hv i => ⟨h v hv i .bulk, h v hv i .express⟩

/-- A head in service stands where no new cell is in service and no queue toward its output shrinks. -/
theorem headLaw_mono {s t : State} {o : PortId} (h : HeadLaw s o)
    (hs : ∀ v ∈ (t.port o).tx.service, ∃ w ∈ (s.port o).tx.service, w.src = v.src)
    (hocc : ∀ i c, (s.port i).occupancy (unicastKey o c) ≤ (t.port i).occupancy (unicastKey o c)) : HeadLaw t o := by
  rw [headLaw_iff] at h ⊢
  intro v hv i c hc
  obtain ⟨w, hw, hwv⟩ := hs v hv
  have := h w hw i c (hwv.trans hc)
  have := hocc i c
  omega

/-- No cell is in service, so no head is. -/
theorem headLaw_of_none {s : State} {o : PortId} (h : (s.port o).tx.service = none) : HeadLaw s o := by
  intro v hv
  rw [h] at hv
  cases hv

/-! ### The credits of an event -/

/-- The laws of credits in the course of an event. -/
structure Event.Conserves (c : Event) : Prop where
  port : ∀ q, (c.port q).Conserves fun k => (q, k) ∈ c.freed
  head : ∀ o, HeadLaw c.toState o

/-- The laws of credits between two events. -/
def State.Conserves (s : State) : Prop := ∀ p, (s.port p).CreditsLawful ∧ HeadLaw s p

/-- An event that has freed nothing keeps the laws where its state does. -/
theorem Event.conserves_of_state {c : Event} (hf : c.freed = []) (h : c.toState.Conserves) : c.Conserves :=
  ⟨fun q => (Port.conserves_iff (by simp [hf]) _).2 (h q).1, fun o => (h o).2⟩

theorem State.Conserves.start {s : State} (h : s.Conserves) : (Event.start s).Conserves :=
  Event.conserves_of_state rfl h

theorem mem_foldl_joinKey (ks l : List Key) (k : Key) : k ∈ ks.foldl joinKey l ↔ k ∈ l ∨ k ∈ ks := by
  induction ks generalizing l with
  | nil => simp
  | cons a ks ih => rw [List.foldl_cons, ih, mem_joinKey, List.mem_cons, or_assoc]

theorem nodup_foldl_joinKey (ks : List Key) {l : List Key} (h : l.Nodup) : (ks.foldl joinKey l).Nodup := by
  induction ks generalizing l with
  | nil => exact h
  | cons a ks ih => exact ih (nodup_joinKey h a)

/-- The keys that join the list of a port are those noted for it (R51). -/
theorem Event.mem_joining (c : Event) (q : PortId) (k : Key) : k ∈ c.joining q ↔ (q, k) ∈ c.freed := by
  unfold Event.joining
  simp only [List.mem_map, List.mem_filter, (sortFreed_perm c.freed).mem_iff, decide_eq_true_eq]
  constructor
  · rintro ⟨⟨i, j⟩, ⟨h, rfl⟩, rfl⟩; exact h
  · exact fun h => ⟨_, ⟨h, rfl⟩, rfl⟩

/-- As an event closes, its noted keys join the return lists, and the laws hold between events (R51). -/
theorem Event.Conserves.finish {c : Event} (h : c.Conserves) : c.finish.Conserves := by
  intro p
  obtain ⟨hc, hw, hcap, hnd, hl, hword⟩ := h.port p
  refine ⟨?_, headLaw_mono (h.head p) (fun v hv => ⟨v, ?_, rfl⟩) fun i d => ?_⟩
  · rw [Event.finish_port]
    refine ⟨hc, fun hlend => ?_, hcap, ⟨nodup_foldl_joinKey _ hnd, fun k => ?_⟩, hword⟩
    · obtain ⟨hz, hr, hs, hv⟩ := hw hlend
      refine ⟨hz, ?_, hs, hv⟩
      have hnone : c.joining p = [] := List.eq_nil_iff_forall_not_mem.2 fun k hk =>
        (h.port p).not_noted hlend k ((c.mem_joining p k).1 hk)
      rw [hnone]
      exact hr
    · show k ∈ (c.joining p).foldl joinKey _ ↔ _
      rw [mem_foldl_joinKey, Event.mem_joining]
      exact hl k
  · rwa [Event.finish_port] at hv
  · rw [Event.finish_port]
    exact le_rfl

/-- Credits that move keep the laws, the keys noted being those whose pending counts rise. -/
theorem Event.Conserves.shifts {c d : Event} (hc : c.Conserves) (hs : ∀ q, (c.port q).Shifts (d.port q))
    (hf : ∀ q k, (q, k) ∈ d.freed ↔ (q, k) ∈ c.freed ∨
      (c.port q).account.pending.get k < (d.port q).account.pending.get k)
    (hh : ∀ o, HeadLaw d.toState o) : d.Conserves :=
  ⟨fun q => (hc.port q).shifts (hs q) (hf q), hh⟩

/-- Credits of one port move. -/
theorem Event.Conserves.shiftPort {c d : Event} {p : PortId} (hc : c.Conserves) (ho : ∀ q, q ≠ p → d.port q = c.port q)
    (hp : (c.port p).Shifts (d.port p))
    (hf : ∀ q k, (q, k) ∈ d.freed ↔ (q, k) ∈ c.freed ∨
      q = p ∧ (c.port p).account.pending.get k < (d.port p).account.pending.get k)
    (hh : ∀ o, HeadLaw d.toState o) : d.Conserves := by
  refine hc.shifts (fun q => ?_) (fun q k => ?_) hh
  · by_cases h : q = p
    · exact h ▸ hp
    · rw [ho q h]; exact (Port.Quiet.refl _).shifts
  · rw [hf]
    by_cases h : q = p
    · subst h; simp
    · simp [h, ho q h]

/-- The event leaves the credits of every port and notes no key. -/
structure Event.Quiet (c d : Event) : Prop where
  port : ∀ q, (c.port q).Quiet (d.port q)
  freed : d.freed = c.freed

theorem Event.Quiet.refl (c : Event) : c.Quiet c := ⟨fun _ => .refl _, rfl⟩

theorem Event.Quiet.trans {c d e : Event} (h : c.Quiet d) (h' : d.Quiet e) : c.Quiet e :=
  ⟨fun q => (h.port q).trans (h'.port q), h'.freed.trans h.freed⟩

theorem Event.Conserves.quiet {c d : Event} (hc : c.Conserves) (h : c.Quiet d) : d.Conserves :=
  hc.shifts (fun q => (h.port q).shifts) (fun q k => by rw [h.freed, (h.port q).account]; simp)
    fun o => headLaw_mono (hc.head o) (h.port o).service fun i _ => ((h.port i).occupancy _).ge

/-- A fold of quiet operations is quiet. -/
theorem Event.foldl_quiet {α : Type} (f : Event → α → Event) (hf : ∀ (c : Event) a, c.Quiet (f c a)) (l : List α)
    (c : Event) : c.Quiet (l.foldl f c) := by
  induction l generalizing c with
  | nil => exact .refl c
  | cons a l ih => exact (hf c a).trans (ih _)

/-- An event that changes no port and notes no key is quiet. -/
theorem Event.quiet_of_ports {c d : Event} (hp : d.ports = c.ports) (hf : d.freed = c.freed) : c.Quiet d :=
  ⟨fun q => by rw [show d.port q = c.port q from congrArg (Table.get · q) hp]; exact .refl _, hf⟩

theorem Event.modPort_quiet {c : Event} {p : PortId} {f : Port → Port} (h : (c.port p).Quiet (f (c.port p))) :
    c.Quiet (c.modPort p f) := ⟨Event.modPort_ports .refl c p f h, rfl⟩

theorem Event.raise_quiet (c : Event) (n : Notice) : c.Quiet (c.raise n) := Event.quiet_of_ports rfl rfl

theorem Event.raiseIf_quiet (c : Event) (b : Bool) (n : Notice) : c.Quiet (c.raiseIf b n) := by
  cases b <;> exact Event.quiet_of_ports rfl rfl

theorem Event.count_quiet (c : Event) (p : PortId) (k : Counter) : c.Quiet (c.count p k) :=
  Event.modPort_quiet (.of_eq rfl rfl rfl rfl rfl (.inr rfl))

/-- A monitor replaced, and a congestion update owed or not, is quiet (R142). -/
theorem Port.quiet_owed (x : Port) (m : Monitor) (b : Bool) : x.Quiet { x with monitor := m, tx := owed b x } := by
  refine .of_eq rfl rfl rfl rfl rfl (.inr ?_)
  show (owed b x).service.map _ = _
  unfold owed
  split <;> rfl

theorem Event.setWaiting_quiet (c : Event) (o : PortId) (n : Nat) : c.Quiet (c.setWaiting o n) := by
  obtain ⟨hs, -, hf⟩ := c.setWaiting_eq o n
  refine ⟨fun q => ?_, hf⟩
  show Port.Quiet _ ((c.setWaiting o n).toState.port q)
  rw [hs]
  simp only [waited, State.port, Table.get_ofFn]
  exact Port.quiet_owed _ _ _

theorem Event.evaluate_quiet (c : Event) (o : PortId) : c.Quiet (c.evaluate o) := by
  have h : c.evaluate o = c.setWaiting o (c.port o).monitor.waiting := by
    unfold Event.setWaiting
    rw [Event.modPort_self rfl]
  rw [h]
  exact c.setWaiting_quiet o _

theorem Event.guardFault_quiet (c : Event) (p : PortId) (k : FaultKind) : c.Quiet (c.guardFault p k) := by
  obtain ⟨hs, hf, -⟩ := c.guardFault_eq p k
  refine ⟨fun q => ?_, hf⟩
  show Port.Quiet _ ((c.guardFault p k).toState.port q)
  rw [hs]
  exact (Event.modPort_quiet (f := fun _ => { c.port p with guard := afterFault (c.port p).guard k })
    (.of_eq rfl rfl rfl rfl rfl (.inr rfl))).port q

theorem Event.clearGuard_quiet (c : Event) (p : PortId) : c.Quiet (c.clearGuard p) :=
  (Event.modPort_quiet (.of_eq rfl rfl rfl rfl rfl (.inr rfl))).trans (Event.raiseIf_quiet _ _ _)

theorem Event.meterDeparture_quiet (c : Event) (o : PortId) (d : Departed) : c.Quiet (c.meterDeparture o d) := by
  have taken (m : Table Meter 8) : c.Quiet { c with meters := m } := Event.quiet_of_ports rfl rfl
  exact (taken _).trans (Event.foldl_quiet _ (fun e _ => e.raiseIf_quiet _ _) _ _)

theorem Event.modArbiter_quiet (c : Event) (o : PortId) (f : Arbiter → Arbiter) : c.Quiet (c.modArbiter o f) :=
  Event.modPort_quiet (.of_eq rfl rfl rfl rfl rfl (.inr rfl))

/-- The restart flag of a head is no part of its occupancy (R132). -/
theorem Event.markHead_quiet (c : Event) (o : PortId) : c.Quiet (c.markHead o) := by
  have hlen (l : List CellEntry) : (markRestart l).length = l.length := by cases l <;> rfl
  unfold Event.markHead
  split
  · next i cls _ _ _ =>
    refine Event.modPort_quiet ⟨⟨fun k => ?_, fun v hv => ⟨v, hv, rfl⟩⟩, rfl, rfl⟩
    rcases key_cases k with rfl | ⟨q, d, rfl⟩
    · rfl
    · rw [Port.occupancy_unicast, Port.occupancy_unicast, Port.putQueue_queue]
      split
      · next h => rw [hlen, h.1, h.2]
      · rfl
  · exact .refl c

/-- An account made anew, or moved by a word, on a port for which no key is noted. -/
theorem Event.Conserves.modPort {c : Event} {p : PortId} {f : Port → Port} (hc : c.Conserves)
    (hn : ∀ k, (p, k) ∉ c.freed) (hk : (c.port p).Keeps (f (c.port p))) (hp : (f (c.port p)).CreditsLawful) :
    (c.modPort p f).Conserves := by
  have hkeep (q : PortId) : (c.port q).Keeps ((c.modPort p f).port q) :=
    Event.modPort_ports (fun x => (Port.Quiet.refl x).toKeeps) c p f hk q
  refine ⟨fun q => ?_, fun o => headLaw_mono (hc.head o) (hkeep o).service fun i _ => ((hkeep i).occupancy _).ge⟩
  rw [Event.modPort_port]
  split
  · next h => subst h; exact (Port.conserves_iff hn _).2 hp
  · exact hc.port q

/-! ### Picks (R102) -/

/-- A head that a pick names stands in its queue (R103, R106, R107). -/
theorem State.nextPick_waits {s : State} {o : PortId} {k : Pick} (h : s.nextPick o = some k) (i : PortId) (c : Class)
    (hk : k.source = .cell i c) : (s.port i).queue o c ≠ [] := by
  -- an offer of a class waits
  have offers (i : PortId) (t : Turn) : (s.offer o i t = .express → (s.port i).queue o .express ≠ []) ∧
      (s.offer o i t = .bulk → (s.port i).queue o .bulk ≠ []) := by
    unfold State.offer
    split
    · next hx => exact ⟨fun _ => by simpa [State.expressWaits] using hx, nofun⟩
    split
    · next hb =>
      rw [Bool.and_eq_true] at hb
      refine ⟨?_, fun _ => by simpa [State.bulkWaits] using hb.1⟩
      cases t <;> exact nofun
    split
    · next hb => exact ⟨nofun, fun _ => by simpa [State.bulkWaits] using hb⟩
    · exact ⟨nofun, nofun⟩
  have waits (hw : (k.offer = .express → (s.port k.input).queue o .express ≠ []) ∧
      (k.offer = .bulk → (s.port k.input).queue o .bulk ≠ [])) : (s.port i).queue o c ≠ [] := by
    unfold Pick.source at hk
    split at hk
    · next ho => cases hk; exact hw.1 ho
    · next ho => cases hk; exact hw.2 ho
    · cases hk
  have allowance {a : Arbiter} (h : s.allowancePick o a = some k) : (s.port i).queue o c ≠ [] := by
    obtain ⟨j, -, rfl⟩ := Option.map_eq_some_iff.1 h
    exact waits (offers _ _)
  have spare {a : Arbiter} (h : s.sparePick o a = some k) : (s.port i).queue o c ≠ [] := by
    obtain ⟨j, -, rfl⟩ := Option.map_eq_some_iff.1 h
    exact waits (offers _ _)
  unfold State.nextPick at h
  split at h
  · next he =>
    cases h
    unfold State.expressPick at he
    split at he
    · obtain ⟨j, hj, rfl⟩ := Option.map_eq_some_iff.1 he
      have hw := List.find?_some hj
      refine waits ⟨fun _ => ?_, fun hb => by cases hb⟩
      simpa [State.expressWaits] using hw
    · cases he
  · unfold State.bulkPick at h
    split at h
    · next ha => cases h; exact allowance ha
    · split at h
      · split at h
        · next ha => cases h; exact allowance ha
        · exact spare h
      · exact spare h

theorem pickCopy_length (o : PortId) (l : List CopyEntry) : (pickCopy o l).length = l.length := by
  induction l with
  | nil => rfl
  | cons e l ih =>
    unfold pickCopy
    split
    · rfl
    · rw [List.length_cons, ih, List.length_cons]

/-- The check of a pick moves no credit, and takes into service a head that stands in its queue (R46, R102). -/
theorem Event.Conserves.pickCheck {c : Event} (hc : c.Conserves) (o : PortId) : (c.pickCheck o).Conserves := by
  have hport (q : PortId) : (c.port q).Shifts ((c.pickCheck o).port q) ∧
      (∀ k, ((c.pickCheck o).port q).occupancy k = (c.port q).occupancy k) ∧
      ((c.pickCheck o).port q).account = (c.port q).account := by
    rcases c.pickCheck_port o q with h | ⟨-, -, k, -, h⟩
    · rw [h]; exact ⟨(Port.Quiet.refl _).shifts, fun _ => rfl, rfl⟩
    · rw [h]
      have hocc (j : Key) : ({ c.port q with
          copies := if q = k.input ∧ k.offer = .copy then pickCopy o (c.port q).copies else (c.port q).copies
          arbiter := if q = o then k.arbiter else (c.port q).arbiter
          tx := if q = o then { (c.port q).tx with
            state := .sending, service := some { src := k.source, aborted := false, started := false } }
            else (c.port q).tx } : Port).occupancy j = (c.port q).occupancy j := by
        rcases key_cases j with rfl | ⟨p, d, rfl⟩
        · rw [Port.occupancy_keyM, Port.occupancy_keyM]
          dsimp only
          split
          · exact pickCopy_length _ _
          · rfl
        · rw [Port.occupancy_unicast, Port.occupancy_unicast]; rfl
      exact ⟨⟨rfl, fun _ j => by rw [hocc], fun _ => ⟨rfl, fun j => (hocc j).le⟩, fun _ => le_rfl, rfl, rfl⟩, hocc, rfl⟩
  refine hc.shifts (fun q => (hport q).1) (fun q k => ?_) fun q => ?_
  · rw [(c.pickCheck_eq o).2.2, (hport q).2.2]; simp
  · rcases c.pickCheck_port o q with h | ⟨-, -, k, hk, h⟩
    · exact headLaw_mono (hc.head q) (fun v hv => ⟨v, by rwa [h] at hv, rfl⟩) fun i d => ((hport i).2.1 _).ge
    · by_cases hq : q = o
      · subst hq
        rw [headLaw_iff]
        intro v hv i d hd
        rw [h] at hv
        simp only [if_true] at hv
        obtain rfl := Option.some.inj hv
        rw [(hport i).2.1, Port.occupancy_unicast, ne_eq, List.length_eq_zero_iff]
        exact State.nextPick_waits hk i d hd
      · refine headLaw_mono (hc.head q) (fun v hv => ⟨v, ?_, rfl⟩) fun i d => ((hport i).2.1 _).ge
        rw [h] at hv
        simpa only [if_neg hq] using hv

theorem Event.Conserves.foldl_pickCheck {c : Event} (hc : c.Conserves) (l : List PortId) :
    (l.foldl (fun c o => c.pickCheck o) c).Conserves := by
  induction l generalizing c with
  | nil => exact hc
  | cons o l ih => exact ih (hc.pickCheck o)

end Sys2Proof.Machine

namespace Sys2Proof.Machine

open Sys2Proof Sys2Proof.Safety

/-- A port that is not ENABLED lends nothing (R49). -/
theorem Port.lends_of_admin {x : Port} (h : x.admin ≠ .enabled) : x.lends = false := by simp [Port.lends, h]

/-- A port that is not UP lends nothing (R49). -/
theorem Port.lends_of_link {x : Port} (h : x.rx.link ≠ .up) : x.lends = false := by simp [Port.lends, h]

/-- A withdrawal leaves a port lawful that is then not ENABLED (R59). -/
theorem Port.withdraw_creditsLawful {x : Port} {a : AdminState} (hc : CapacityLaw x) (ha : a ≠ .enabled) :
    ({ x.withdraw with admin := a } : Port).CreditsLawful :=
  Port.creditsLawful_of_withdrawn (Port.lends_of_admin ha) hc rfl rfl rfl rfl Account.voided_void

/-! ### Flushes, drains and links (R20, R21, R61, R95, R162) -/

theorem Transmitter.dropCell_service (t : Transmitter) : t.dropCell.service = none := by
  unfold Transmitter.dropCell
  split
  · rfl
  · next h => simpa using h

/-- But for what an input loses, its output becomes unavailable quietly. -/
theorem Event.closeOutput_quiet (c : Event) (o q : PortId) :
    ((c.port q).afterLoss o).Quiet ((c.closeOutput o).port q) := by
  have hclosed : ((c.port q).afterLoss o).Quiet (c.closedPort o q) := by
    unfold State.closedPort
    split
    · exact .of_eq rfl rfl rfl rfl rfl (.inl (Transmitter.dropCell_service _))
    · exact .refl _
  rw [Event.closeOutput_port]
  exact hclosed.trans (Port.quiet_owed _ _ _)

theorem Event.closeOutput_service (c : Event) (o : PortId) : ((c.closeOutput o).port o).tx.service = none := by
  rw [Event.closeOutput_port]
  unfold State.closedPort owed
  simp only [if_true]
  split <;> exact Transmitter.dropCell_service _

/-- A flush and prune moves credits at every input, and leaves the heads in service toward other outputs (R50, R61, R95). -/
theorem Event.Conserves.closeOutput {c : Event} (hc : c.Conserves) (o : PortId) : (c.closeOutput o).Conserves := by
  have hq := c.closeOutput_quiet o
  refine hc.shifts (fun q => ((c.port q).afterLoss_shifts o).trans (hq q).shifts) (fun q k => ?_) fun q => ?_
  · rw [(c.closeOutput_eq o).2.2, (hq q).account, Port.afterLoss_pending_lt, List.mem_append]
    refine or_congr_right ⟨fun h => ?_, fun h => ?_⟩
    · obtain ⟨i, -, hi⟩ := List.mem_flatMap.1 h
      obtain ⟨j, hj, he⟩ := List.mem_map.1 hi
      obtain ⟨rfl, rfl⟩ := Prod.mk.inj he
      exact hj
    · exact List.mem_flatMap.2 ⟨q, mem_allPorts q, List.mem_map.2 ⟨k, h, rfl⟩⟩
  · by_cases h : q = o
    · rw [h]; exact headLaw_of_none (c.closeOutput_service o)
    · refine headLaw_mono (hc.head q) (hq q).service fun i d => ?_
      have hi := (hq i).occupancy (unicastKey q d)
      rw [Port.afterLoss_occupancy, Port.occupancy_unicast (Port.loseOutput _ _), Port.loseOutput_queue, if_neg h,
        ← Port.occupancy_unicast] at hi
      exact hi.ge

/-- The end of a drain withdraws what a DRAINING port does not lend (R162). -/
theorem Event.Conserves.endDrain {c : Event} (hc : c.Conserves) {i : PortId} (hd : c.drained i = true) :
    (c.endDrain i).Conserves := by
  have hadmin : (c.port i).admin = .draining := by
    simp only [State.drained, Bool.and_eq_true, beq_iff_eq] at hd
    exact hd.1
  have hl : (c.port i).lends = false := Port.lends_of_admin (by simp [hadmin])
  exact (hc.modPort (f := fun x => { x.withdraw with admin := .disabled }) ((hc.port i).not_noted hl)
    (.of_eq rfl rfl (.inr rfl)) (Port.withdraw_creditsLawful (hc.port i).capacity nofun)).quiet (Event.raise_quiet _ _)

theorem Event.Conserves.drainChecks {c : Event} (hc : c.Conserves) (n : Nat) (l : List PortId) :
    (c.drainChecks n l).Conserves :=
  Event.drainChecks_induct Event.Conserves (fun _ i h hd => (h.endDrain hd).closeOutput i) n l c hc

theorem Event.Conserves.outputUnavailable {c : Event} (hc : c.Conserves) (o : PortId) : (c.outputUnavailable o).Conserves :=
  (hc.closeOutput o).drainChecks _ _

/-- A link that leaves UP takes its credits back (R20, R59). -/
theorem Event.Conserves.enterDown {c : Event} (hc : c.Conserves) {p : PortId} (hn : ∀ k, (p, k) ∉ c.freed) :
    (c.enterDown p).Conserves := by
  unfold Event.enterDown
  split
  · refine Event.Conserves.outputUnavailable (Event.Conserves.quiet ?_
      ((Event.raise_quiet _ _).trans (Event.raiseIf_quiet _ _ _))) p
    exact hc.modPort hn (.of_eq rfl rfl (.inl rfl))
      (Port.creditsLawful_of_withdrawn (Port.lends_of_link (by simp [Port.leaveUp, Receiver.inDown]))
        (hc.port p).capacity rfl rfl rfl rfl nofun)
  · next hu =>
    have hl : (c.port p).rx.link ≠ .up := by simpa [Port.isUp] using hu
    exact hc.quiet (Event.modPort_quiet
      ⟨.of_eq rfl rfl (.inr rfl), (Port.lends_of_link (by simp [Receiver.inDown])).trans (Port.lends_of_link hl).symm, rfl⟩)

theorem Event.Conserves.resetPort {c : Event} (hc : c.Conserves) {p : PortId} (hn : ∀ k, (p, k) ∉ c.freed) :
    (c.resetPort p).Conserves :=
  (hc.enterDown hn).quiet ((Event.clearGuard_quiet _ _).trans (Event.modPort_quiet (.of_eq rfl rfl rfl rfl rfl (.inr rfl))))

/-- A link that enters UP lends where its port is ENABLED, by a credit issue (R21). -/
theorem Event.Conserves.enterUp {c : Event} (hc : c.Conserves) {p : PortId} (hn : ∀ k, (p, k) ∉ c.freed)
    (good : Nat) : (c.enterUp p good).Conserves := by
  unfold Event.enterUp
  dsimp only
  refine Event.Conserves.pickCheck (Event.Conserves.quiet ?_ (Event.raise_quiet _ _)) p
  split
  · next ha =>
    rw [Event.modPort_modPort]
    exact hc.modPort hn (.of_eq rfl rfl (.inr rfl))
      (Port.issue_creditsLawful (hc.port p).capacity (by simp [Port.lends, ha]))
  · next ha =>
    exact hc.quiet (Event.modPort_quiet
      ⟨.of_eq rfl rfl (.inr rfl), (Port.lends_of_admin (by exact ha)).trans (Port.lends_of_admin ha).symm, rfl⟩)

/-! ### Departures (R47, R93, R94, R125) -/

/-- The output once its cell has gone, but for its waiting count: counted, refilled, its transmitter IDLE (R125). -/
def Port.sent (x : Port) : Port :=
  { x.count .departed 1 with
    arbiter := x.arbiter.refill
    tx := { x.tx.endUnit .whole with state := .idle, service := none } }

/-- The cell or copy leaves its input, which gains `n` places for it (R47, R94). -/
def Event.leaves (c : Event) (o : PortId) (src : Source) (n : Nat) : Event :=
  (c.modPort src.input (Port.depart o src)).free src.input (src.key o) n

/-- A completion in its parts (R125). -/
theorem Event.complete_parts (c : Event) (o : PortId) (src : Source) :
    let freed := (c.modPort o Port.sent).leaves o src (if (c.departing o src).2 then 1 else 0)
    c.complete o src = ((freed.setWaiting o ((freed.port o).monitor.waiting - 1)).meterDeparture o
      (c.departing o src).1).drainChecks 24 (if (c.departing o src).2 then [src.input] else []) := by
  have none (d : Event) (i : PortId) (k : Key) : d.free i k 0 = d := by simp [Event.free]
  unfold Event.complete Event.leaves
  dsimp only
  split
  · rfl
  · rw [none]; rfl

/-- A copy that departs takes its entry along exactly where it was the last (R93, R94). -/
theorem departCopy_length (o : PortId) (l : List CopyEntry) :
    (departCopy o l).length +
      (if ((l.find? fun e => e.inService.has o).map fun e => (e.lose o).remaining == OutSet.empty).getD false then 1
        else 0) = l.length := by
  induction l with
  | nil => rfl
  | cons e l ih =>
    unfold departCopy
    by_cases hs : e.inService.has o = true
    · by_cases hr : (e.lose o).remaining = OutSet.empty <;> simp [hs, hr]
    · simp only [List.find?_cons, hs, if_false, Bool.false_eq_true, List.length_cons]
      omega

/-- What departs from input `x` leaves its key, where it frees a place, and no other (R47, R94). -/
theorem Port.depart_occupancy {s : State} {o : PortId} {src : Source} {x : Port}
    (hq : x.queues = (s.port src.input).queues) (hc : x.copies = (s.port src.input).copies)
    (hne : ∀ i c, src = .cell i c → (s.port i).queue o c ≠ []) (k : Key) :
    (x.depart o src).occupancy k + (if k = src.key o then if (s.departing o src).2 then 1 else 0 else 0) =
      x.occupancy k := by
  have hqueue (q : PortId) (d : Class) : x.queue q d = (s.port src.input).queue q d := by unfold Port.queue; rw [hq]
  cases src with
  | cell i c =>
    show (x.putQueue o c _).occupancy k + (if k = unicastKey o c then 1 else 0) = _
    rcases key_cases k with rfl | ⟨q, d, rfl⟩
    · rw [if_neg (unicastKey_ne_keyM o c).symm]; rfl
    · rw [Port.occupancy_unicast, Port.occupancy_unicast, Port.putQueue_queue]
      by_cases h : q = o ∧ d = c
      · obtain ⟨rfl, rfl⟩ := h
        have hlen : 0 < (x.queue q d).length := List.length_pos_iff.2 (by rw [hqueue]; exact hne i d rfl)
        rw [if_pos ⟨rfl, rfl⟩, if_pos rfl, List.length_tail]
        omega
      · rw [if_neg h, if_neg fun e => h (unicastKey_inj e), Nat.add_zero]
  | copy i =>
    rcases key_cases k with rfl | ⟨q, d, rfl⟩
    · show (departCopy o x.copies).length + _ = x.copies.length
      rw [hc]
      exact departCopy_length o _
    · have hk : unicastKey q d ≠ (Source.copy i).key o := unicastKey_ne_keyM q d
      rw [if_neg hk, Nat.add_zero, Port.occupancy_unicast, Port.occupancy_unicast]
      rfl

theorem Port.depart_rest (o : PortId) (src : Source) (x : Port) :
    (x.depart o src).account = x.account ∧ (x.depart o src).lends = x.lends ∧ (x.depart o src).tx = x.tx := by
  cases src <;> exact ⟨rfl, rfl, rfl⟩

/-- What leaves an output's key leaves the queues toward every other output (R47). -/
theorem Source.key_ne (src : Source) {o q : PortId} (h : q ≠ o) (d : Class) : unicastKey q d ≠ src.key o := by
  cases src with
  | cell i a => exact fun e => h (unicastKey_inj e).1
  | copy i => exact unicastKey_ne_keyM q d

/-- A cell that leaves for an output that no longer has it in service moves its place to the pending count (R50). -/
theorem Event.Conserves.leaves {c : Event} (hc : c.Conserves) {o : PortId} (hnone : (c.port o).tx.service = none)
    {src : Source} {n : Nat} (hocc : ∀ k, ((c.port src.input).depart o src).occupancy k +
      (if k = src.key o then n else 0) = (c.port src.input).occupancy k) : (c.leaves o src n).Conserves := by
  obtain ⟨hacc, hlends, htx⟩ := Port.depart_rest o src (c.port src.input)
  have hself : (c.leaves o src n).port src.input = ((c.port src.input).depart o src).freePlaces (src.key o) n := by
    unfold Event.leaves
    rw [Event.free_port, if_pos rfl, Event.modPort_port_self]
  have hne {q : PortId} (hq : q ≠ src.input) : (c.leaves o src n).port q = c.port q := by
    unfold Event.leaves
    rw [Event.free_port, if_neg hq, Event.modPort_port_ne _ _ hq]
  have htxs (q : PortId) : ((c.leaves o src n).port q).tx = (c.port q).tx := by
    by_cases hq : q = src.input
    · rw [hq, hself, Port.freePlaces_eq]; exact htx
    · rw [hne hq]
  refine hc.shiftPort (p := src.input) (fun q => hne) ?_ (fun q k => ?_) fun q => ?_
  · rw [hself]
    exact Port.freePlaces_shifts hlends hacc hocc
  · rw [hself, Port.freePlaces_account, hlends, hacc]
    unfold Event.leaves
    rw [Event.free_freed, Event.modPort_port_self, hlends, Event.modPort_freed, List.mem_append]
    refine or_congr_right ?_
    cases (c.port src.input).lends
    · simp
    · by_cases hn : n = 0 <;> by_cases hk : k = src.key o <;> simp [hn, hk]
      omega
  · by_cases hq : q = o
    · exact headLaw_of_none (by rw [hq]; exact (congrArg _ (htxs o)).trans hnone)
    · refine headLaw_mono (hc.head q) (fun v hv => ⟨v, by rwa [← htxs q], rfl⟩) fun i d => ?_
      by_cases hi : i = src.input
      · have := hocc (unicastKey q d)
        rw [if_neg (src.key_ne hq d), Nat.add_zero] at this
        show _ ≤ ((c.leaves o src n).port i).occupancy _
        rw [hi, hself, Port.freePlaces_eq]
        exact this.ge
      · exact (congrArg (Port.occupancy · _) (hne hi)).ge

/-- The cell in service departs (R125). -/
theorem Event.Conserves.depart {c : Event} (hc : c.Conserves) {o : PortId} {src : Source}
    (hsrc : ∃ v ∈ (c.port o).tx.service, v.src = src) : (c.depart o src).Conserves := by
  obtain ⟨v, hv, hsrc⟩ := hsrc
  have hne (i : PortId) (d : Class) (h : src = .cell i d) : (c.port i).queue o d ≠ [] := by
    have := (headLaw_iff _ _).1 (hc.head o) v hv i d (hsrc.trans h)
    rwa [Port.occupancy_unicast, ne_eq, List.length_eq_zero_iff] at this
  have hstore (i : PortId) : ((c.modPort o Port.sent).port i).queues = (c.port i).queues ∧
      ((c.modPort o Port.sent).port i).copies = (c.port i).copies := by
    rw [Event.modPort_port]
    split <;> exact ⟨rfl, rfl⟩
  have hsent : (c.modPort o Port.sent).Conserves :=
    hc.quiet (Event.modPort_quiet (.of_eq rfl rfl rfl rfl rfl (.inl rfl)))
  have hleft := hsent.leaves (o := o) (src := src) (by rw [Event.modPort_port_self]; rfl)
    (Port.depart_occupancy (hstore _).1 (hstore _).2 hne)
  unfold Event.depart
  rw [Event.complete_parts]
  exact ((hleft.quiet ((Event.setWaiting_quiet _ _ _).trans (Event.meterDeparture_quiet _ _ _))).drainChecks _ _).pickCheck o

end Sys2Proof.Machine

namespace Sys2Proof.Machine

open Sys2Proof Sys2Proof.Safety

/-! ### Classification (R26 to R31) -/

/-- A credit charged moves where a place is taken or freed for it (R26 step 7, R27, R50). -/
theorem Port.shifts_of_charged {x y : Port} {j : Key} (hx : x.lends = true) (hout : x.account.outstanding.get j ≠ 0)
    (hy : y.lends = true) (hput : y.account.outstanding = x.account.outstanding.put j (x.account.outstanding.get j - 1))
    (hsum : ∀ i, y.occupancy i + y.account.pending.get i =
      x.occupancy i + x.account.pending.get i + if i = j then 1 else 0)
    (hpend : ∀ i, x.account.pending.get i ≤ y.account.pending.get i)
    (hr : y.account.returnList = x.account.returnList) (hf : y.account.inFlight = x.account.inFlight) : x.Shifts y := by
  refine ⟨hy.trans hx.symm, fun _ i => ?_, fun h => ?_, hpend, hr, hf⟩
  · have := hsum i
    rw [hput, Table.get_put]
    by_cases hi : i = j
    · subst hi; rw [if_pos rfl] at this ⊢; omega
    · rw [if_neg hi] at this ⊢; omega
  · rw [hx] at h; cases h

theorem Event.charged_port_ne (s : State) {p q : PortId} (k : Key) (g : Table GroupSet 256) (h : q ≠ p) :
    (Event.charged s p k g).port q = s.port q := Table.get_put_ne _ _ h

/-- An entry that joins takes a place under the key of its queue (R45, R49). -/
theorem Port.joinCell_occupancy (x : Port) (d : PortId) (e : CellEntry) (i : Key) :
    (x.joinCell d e).occupancy i = x.occupancy i + if i = unicastKey d e.cls then 1 else 0 := by
  rcases key_cases i with rfl | ⟨q, c, rfl⟩
  · rw [if_neg (unicastKey_ne_keyM _ _).symm]; rfl
  · rw [Port.occupancy_unicast, Port.occupancy_unicast, Port.joinCell, Port.putQueue_queue]
    by_cases hq : q = d ∧ c = e.cls
    · obtain ⟨rfl, rfl⟩ := hq
      rw [if_pos ⟨rfl, rfl⟩, if_pos rfl, List.length_append, List.length_singleton]
    · rw [if_neg hq, if_neg fun h => hq (unicastKey_inj h), Nat.add_zero]

/-- An entry that joins the replication queue takes a place under key M (R88, R49). -/
theorem Port.joinCopies_occupancy (x : Port) (e : CopyEntry) (i : Key) :
    (x.joinCopies e).occupancy i = x.occupancy i + if i = keyM then 1 else 0 := by
  rcases key_cases i with rfl | ⟨q, c, rfl⟩
  · rw [if_pos rfl, Port.occupancy_keyM, Port.occupancy_keyM, Port.joinCopies, List.length_append, List.length_singleton]
  · rw [if_neg (unicastKey_ne_keyM q c), Nat.add_zero, Port.occupancy_unicast, Port.occupancy_unicast]; rfl

section

variable {s : State} {p : PortId} {k : Key} (hs : s.Conserves) (hl : (s.port p).lends = true)
  (ho : (s.port p).account.outstanding.get k ≠ 0)
include hs hl ho

/-- A charged cell is discarded: its credit moves from outstanding to pending (R27). -/
theorem State.Conserves.discardCharged (g : Table GroupSet 256) (why : Counter) :
    ((Event.charged s p k g).discardCharged p k why).Conserves := by
  have hself := Event.charged_port_self s p k g
  obtain ⟨hstate, -, hfreed⟩ := Event.discardCharged_eq (c := Event.charged s p k g) (p := p)
    (by rw [hself]; exact hl) k why
  rw [hself] at hstate
  generalize (Event.charged s p k g).discardCharged p k why = d at hstate hfreed ⊢
  have hp : d.port p = { (s.port p).charged k with
      counters := countedUp ((s.port p).charged k) why
      account := { ((s.port p).charged k).account with
        pending := ((s.port p).charged k).account.pending.put k (((s.port p).charged k).account.pending.get k + 1) } } := by
    show d.toState.port p = _
    rw [hstate, withPort_port_self]
  have hne {q : PortId} (hq : q ≠ p) : d.port q = s.port q := by
    show d.toState.port q = _
    rw [hstate, withPort_port_ne _ _ hq]
    exact Event.charged_port_ne s k g hq
  have hput (i : Key) : (d.port p).account.pending.get i = (s.port p).account.pending.get i + if i = k then 1 else 0 := by
    rw [hp]
    show ((s.port p).account.pending.put k ((s.port p).account.pending.get k + 1)).get i = _
    rw [Table.get_put]
    split
    · next h => rw [h]
    · rfl
  have hocc (i : Key) : (d.port p).occupancy i = (s.port p).occupancy i := by rw [hp]; rfl
  refine hs.start.shiftPort (p := p) (fun q => hne) (Port.shifts_of_charged (j := k) hl ho (by rw [hp]; exact hl)
    (by rw [hp]; rfl) (fun i => ?_) (fun i => ?_) (by rw [hp]; rfl) (by rw [hp]; rfl)) (fun q i => ?_) fun q => ?_
  · rw [hput, hocc, Nat.add_assoc]; rfl
  · rw [hput]; exact Nat.le_add_right _ _
  · rw [hfreed, hput, List.mem_append, List.mem_singleton, Prod.mk.injEq]
    refine or_congr .rfl (and_congr_right fun _ => ?_)
    by_cases hi : i = k <;> simp [hi]
  · have hkeep (i : PortId) : (d.port i).tx = (s.port i).tx ∧ ∀ j, (d.port i).occupancy j = (s.port i).occupancy j := by
      by_cases hi : i = p
      · rw [hi]; exact ⟨by rw [hp]; rfl, hocc⟩
      · rw [hne hi]; exact ⟨rfl, fun _ => rfl⟩
    exact headLaw_mono (hs q).2 (fun v hv => ⟨v, by rwa [← (hkeep q).1], rfl⟩) fun i e => ((hkeep i).2 _).ge

/-- A charged cell joins its input: its credit moves from outstanding to the occupancy (R28, R29). -/
theorem State.Conserves.joinCharged (g : Table GroupSet 256) {f : Port → Port}
    (hf : ∀ x, (f x).account = x.account ∧ (f x).lends = x.lends ∧ (f x).tx = x.tx ∧
      ∀ i, (f x).occupancy i = x.occupancy i + if i = k then 1 else 0) :
    ((Event.charged s p k g).modPort p f).Conserves := by
  have hp : ((Event.charged s p k g).modPort p f).port p = f ((s.port p).charged k) := by
    rw [Event.modPort_port_self, Event.charged_port_self]
  have hne {q : PortId} (hq : q ≠ p) : ((Event.charged s p k g).modPort p f).port q = s.port q := by
    rw [Event.modPort_port_ne _ _ hq, Event.charged_port_ne s k g hq]
  obtain ⟨hacc, hlends, htx, hocc⟩ := hf ((s.port p).charged k)
  generalize hd : (Event.charged s p k g).modPort p f = d at hp hne ⊢
  have hfreed : d.freed = [] := by rw [← hd]; rfl
  refine hs.start.shiftPort (p := p) (fun q => hne) (Port.shifts_of_charged (j := k) hl ho (by rw [hp, hlends]; exact hl)
    (by rw [hp, hacc]; rfl) (fun i => ?_) (fun i => ?_) (by rw [hp, hacc]; rfl) (by rw [hp, hacc]; rfl)) (fun q i => ?_)
    fun q => ?_
  · rw [hp, hacc, hocc, Nat.add_right_comm]; rfl
  · rw [hp, hacc]; exact le_rfl
  · rw [hp, hacc, hfreed]
    exact ⟨.inl, fun h => h.elim id fun h => absurd h.2 (lt_irrefl _)⟩
  · have hkeep (i : PortId) : (d.port i).tx = (s.port i).tx ∧ ∀ j, (s.port i).occupancy j ≤ (d.port i).occupancy j := by
      by_cases hi : i = p
      · rw [hi, hp]
        exact ⟨htx, fun j => by rw [hocc]; exact Nat.le_add_right _ _⟩
      · rw [hne hi]; exact ⟨rfl, fun _ => le_rfl⟩
    exact headLaw_mono (hs q).2 (fun v hv => ⟨v, by rwa [← (hkeep q).1], rfl⟩) fun i e => (hkeep i).2 _

theorem State.Conserves.acceptCell (g : Table GroupSet 256) {d : PortId} {h : Header} (hk : k = unicastKey d h.cls)
    (payload : List Byte) : ((Event.charged s p k g).acceptCell p d h payload).Conserves := by
  have joined := hs.joinCharged hl ho g (f := (Port.joinCell · d (h.cellEntry payload)))
    fun x => ⟨rfl, rfl, rfl, fun i => hk ▸ x.joinCell_occupancy d (h.cellEntry payload) i⟩
  rw [Event.acceptCell_eq]
  exact (joined.quiet ((Event.count_quiet _ p _).trans (Event.setWaiting_quiet _ d _))).pickCheck d

theorem State.Conserves.acceptCopies (g : Table GroupSet 256) (hk : k = keyM) (h : Header) (payload : List Byte)
    (remaining : OutSet) : ((Event.charged s p k g).acceptCopies p h payload remaining).Conserves := by
  have joined := hs.joinCharged hl ho g (f := (Port.joinCopies · (h.copyEntry payload remaining)))
    fun x => ⟨rfl, rfl, rfl, fun i => hk ▸ x.joinCopies_occupancy (h.copyEntry payload remaining) i⟩
  rw [Event.acceptCopies_eq]
  exact (joined.quiet ((Event.count_quiet _ p _).trans
    (Event.foldl_quiet _ (fun c o => c.setWaiting_quiet o _) _ _))).foldl_pickCheck _

/-- A charged cell takes its place or is discarded (R26 steps 8 and 9). -/
theorem State.Conserves.place {h : Header} (hk : h.HasKey k) (payload : List Byte) :
    ((Event.charged s p k s.groups).place p h payload).Conserves := by
  rcases hk with ⟨hm, rfl⟩ | ⟨hm, d, hd, rfl⟩
  · cases hg : ((Event.charged s p keyM s.groups).groups.get (groupSet h.group.toNat)).hit (groupTag h.group.toNat)
        h.cls with
    | none =>
      rw [Event.place_groupMiss hm hg]
      exact hs.discardCharged hl ho _ _
    | some w =>
      rw [Event.place_hit (remaining := OutSet.inter (((Event.charged s p keyM s.groups).groups.get
        (groupSet h.group.toNat)).ways.get w).fanout (Event.charged s p keyM s.groups).availableSet) hm hg fun o => by
          rw [OutSet.has_inter, State.availableSet, OutSet.has_ofPred]]
      split
      · exact hs.discardCharged hl ho _ _
      · exact hs.acceptCopies hl ho _ rfl h payload _
  · rw [Event.place_unicast hm hd]
    split
    · exact hs.acceptCell hl ho _ rfl payload
    · exact hs.discardCharged hl ho _ _

end

/-- Classification keeps the laws: a cell is counted, brings a credit issue, or moves the credit it is charged (R26). -/
theorem State.Conserves.classify {s : State} (hs : s.Conserves) (p : PortId) (data : List Byte) (closed : CellEnd) :
    ((Event.start s).classify p data closed).Conserves := by
  have counted (k : Counter) : ((Event.start s).count p k).Conserves := hs.start.quiet (Event.count_quiet _ p k)
  have fault (k : Counter) (f : FaultKind) : (((Event.start s).count p k).guardFault p f).Conserves :=
    (counted k).quiet (Event.guardFault_quiet _ p f)
  unfold Event.classify
  dsimp only
  split
  · exact counted _
  next hup =>
  split
  · exact counted _
  next hen =>
  have hl : (s.port p).lends = true := (Port.lends_iff _).2 ⟨not_not.1 hup, not_not.1 hen⟩
  have issued (k : Counter) (f : FaultKind) :
      ((((Event.start s).count p k).guardFault p f).modPort p Port.issue).Conserves := by
    have hq := (Event.count_quiet (Event.start s) p k).trans (Event.guardFault_quiet _ p f)
    exact (fault k f).modPort (fun j => by rw [hq.freed]; simp) (.of_eq rfl rfl (.inr rfl))
      (Port.issue_creditsLawful ((fault k f).port p).capacity ((hq.port p).lends.trans hl))
  split
  · exact issued _ _
  split
  · exact counted _
  split
  · exact issued _ _
  next hbad =>
  split
  · exact fault _ _
  next ho =>
  split
  · exact hs.discardCharged hl ho s.groups .frozen
  · refine hs.place hl ho (Header.hasKey_key ?_) _
    cases hm : (readHeader data).multicast
    · exact .inr (Nat.not_le.1 fun h => hbad ⟨hm, h⟩)
    · exact .inl rfl

/-! ### The unit boundary (R52, R127) -/

/-- The account of `y` is that of `x` with a CREDIT word taken, which was offered (R52). -/
structure Port.TakesCredit (x y : Port) : Prop extends x.Keeps y where
  lends : y.lends = x.lends
  offered : x.lends = true
  account : y.account = { x.account with
    inFlight := some { epoch := x.epoch, entries := x.account.wordEntries, void := false } }

theorem Port.takeWord_credits {map : OutSet} {x y : Port} (h : x.takeWord map = some y) : x.Quiet y ∨ x.TakesCredit y := by
  unfold Port.takeWord at h
  split at h
  · obtain ⟨e, -, rfl⟩ := Option.map_eq_some_iff.1 h
    exact .inl (.of_tx (.inr rfl))
  split at h
  · cases h
    exact .inl (.of_tx (.inr rfl))
  split at h
  · next hc =>
    cases h
    simp only [Port.offersCredit, Bool.and_eq_true] at hc
    exact .inr ⟨.of_eq rfl rfl (.inr rfl), rfl, hc.1.1.1, rfl⟩
  · cases h

theorem State.nextUnit_credits (s : State) (o : PortId) (x : Port) :
    x.Quiet (s.nextUnit o x) ∨ x.TakesCredit (s.nextUnit o x) := by
  unfold State.nextUnit
  dsimp only
  split
  · exact .inl (.of_tx (.inr rfl))
  split
  · next hw =>
    split at hw
    · exact Port.takeWord_credits hw
    · cases hw
  split
  · refine .inl (.of_tx (.inr ?_))
    cases x.tx.service <;> rfl
  split
  · exact Port.takeWord_credits ‹_›
  · exact .inl (.of_tx (.inr rfl))

theorem Port.endUnit_quiet (x : Port) (how : UnitEnd) : x.Quiet { x with tx := x.tx.endUnit how } :=
  .of_tx (.inr (by simp))

theorem State.Conserves.boundary {s : State} (hs : s.Conserves) (o : PortId) :
    ((Event.start s).modPort o fun x => s.nextUnit o { x with tx := x.tx.endUnit .whole }).Conserves := by
  have hend := (s.port o).endUnit_quiet .whole
  have hend' : ({ s.port o with tx := (s.port o).tx.endUnit .whole } : Port).CreditsLawful := (hs o).1
  rcases s.nextUnit_credits o { s.port o with tx := (s.port o).tx.endUnit .whole } with h | h
  · exact hs.start.quiet (Event.modPort_quiet (hend.trans h))
  · exact hs.start.modPort (by simp) (hend.toKeeps.trans h.toKeeps)
      (hend'.takesWord h.offered (h.lends.trans h.offered) h.occupancy h.account)

/-! ### Resets (R22, R183) -/

/-- Nothing is stored, nothing is in service. -/
theorem Port.powerUp_creditsLawful : Port.powerUp.CreditsLawful :=
  Port.creditsLawful_of_withdrawn rfl (by unfold CapacityLaw; decide) rfl rfl rfl rfl nofun

theorem State.powerUp_conserves (l : List Instr) : ({ State.reset with pending := l } : State).Conserves := by
  have hp (q : PortId) : ({ State.reset with pending := l } : State).port q = Port.powerUp := Table.get_fill _ _
  exact fun p => ⟨by rw [hp]; exact Port.powerUp_creditsLawful, headLaw_of_none (by rw [hp]; rfl)⟩

/-- Fabric reset, its credit issues apart, leaves of the credits of each port what the port's own reset leaves (R183). -/
theorem Event.fabricReset_quiet (c : Event) : ∃ e : Event, (∀ q, (c.port q).fabricReset.Quiet (e.port q)) ∧
    e.freed = c.freed ∧ c.fabricReset = { e with ports := e.ports.map Port.issueIfLending } := by
  refine ⟨_, fun q => ?_, ?_, rfl⟩
  all_goals
    have hq : Event.Quiet { c with ports := c.ports.map Port.fabricReset, meters := c.meters.map Meter.fabricReset }
        (allPorts.foldl (fun e o => e.evaluate o) (allPorts.foldl (fun e p => e.fabricNotices p (c.port p))
          { c with ports := c.ports.map Port.fabricReset, meters := c.meters.map Meter.fabricReset })) :=
      (Event.foldl_quiet _ (fun e p => ((Event.raiseIf_quiet _ _ _).trans (Event.raiseIf_quiet _ _ _)).trans
        (Event.raiseIf_quiet _ _ _)) _ _).trans (Event.foldl_quiet _ (fun e o => e.evaluate_quiet o) _ _)
  · have h := hq.port q
    rwa [show ({ c with ports := c.ports.map Port.fabricReset, meters := c.meters.map Meter.fabricReset } : Event).port q =
      (c.port q).fabricReset from Table.get_map _ _ _] at h
  · exact hq.freed

theorem Port.fabricReset_occupancy (x : Port) (k : Key) : x.fabricReset.occupancy k = 0 := by
  rcases key_cases k with rfl | ⟨q, d, rfl⟩
  · rfl
  · rw [Port.occupancy_unicast, Port.queue_of_fill rfl]; rfl

theorem Event.fabricReset_conserves {c : Event} (hf : c.freed = []) : c.fabricReset.Conserves := by
  obtain ⟨e, hq, hfreed, h⟩ := c.fabricReset_quiet
  rw [h]
  have hport (q : PortId) : ({ e with ports := e.ports.map Port.issueIfLending } : Event).port q =
      (e.port q).issueIfLending := Table.get_map _ _ _
  have hcap (q : PortId) : CapacityLaw (e.port q) := fun k => by
    rw [(hq q).occupancy, Port.fabricReset_occupancy]; exact Nat.zero_le _
  refine Event.conserves_of_state (hfreed.trans hf) fun q => ⟨?_, headLaw_of_none ?_⟩
  · show (({ e with ports := e.ports.map Port.issueIfLending } : Event).port q).CreditsLawful
    rw [hport]
    unfold Port.issueIfLending
    split
    · next hl => exact Port.issue_creditsLawful (hcap q) hl
    · next hl =>
      have hacc := (hq q).account
      refine Port.creditsLawful_of_withdrawn (by simpa using hl) (hcap q) ?_ ?_ ?_ ?_ ?_ <;> rw [hacc]
      · rfl
      · rfl
      · rfl
      · rfl
      · exact Account.voided_void
  · show ((({ e with ports := e.ports.map Port.issueIfLending } : Event).port q)).tx.service = none
    have hserv : (e.port q).tx.service = none := by
      rw [Option.eq_none_iff_forall_not_mem]
      intro v hv
      obtain ⟨w, hw, -⟩ := (hq q).service v hv
      cases hw
    rw [hport]
    unfold Port.issueIfLending
    split <;> exact hserv

end Sys2Proof.Machine

namespace Sys2Proof.Machine

open Sys2Proof Sys2Proof.Safety

/-! ### Every command conserves credits -/

/-- ENABLE makes a port that is UP lend, by a credit issue (R159). -/
theorem Event.Conserves.enable {c : Event} (hc : c.Conserves) {p : PortId} (hn : ∀ k, (p, k) ∉ c.freed) :
    (c.enable p).1.Conserves := by
  -- a port that is not UP lends nothing, ENABLED or not
  have enabled (hu : ¬ (c.port p).isUp = true) (ha : (c.port p).admin ≠ .enabled) :
      (c.modPort p fun x => { x with admin := .enabled }).Conserves := by
    have hl : (c.port p).rx.link ≠ .up := by simpa [Port.isUp] using hu
    exact hc.quiet (Event.modPort_quiet
      ⟨.of_eq rfl rfl (.inr rfl), (Port.lends_of_link (by exact hl)).trans (Port.lends_of_admin ha).symm, rfl⟩)
  have lends (hu : (c.port p).isUp = true) : ({ c.port p with admin := .enabled } : Port).lends = true := by
    simpa [Port.lends, Port.isUp] using hu
  unfold Event.enable
  dsimp only
  split
  · exact hc
  · next ha =>
    dsimp only
    split
    · next hu =>
      rw [Event.modPort_modPort]
      exact hc.modPort hn (.of_eq rfl rfl (.inr rfl))
        (Port.issue_creditsLawful (x := { c.port p with admin := .enabled }) (hc.port p).capacity (lends hu))
    · next hu => exact enabled hu (by simp [ha])
  · next ha =>
    dsimp only
    split
    · next hu =>
      rw [Event.modPort_modPort]
      exact (hc.modPort hn (.of_eq rfl rfl (.inr rfl))
        (Port.issue_creditsLawful (x := { c.port p with admin := .enabled }) (hc.port p).capacity (lends hu))).pickCheck p
    · next hu => exact (enabled hu (by simp [ha])).pickCheck p

theorem Event.Conserves.drain {c : Event} (hc : c.Conserves) {p : PortId} (hn : ∀ k, (p, k) ∉ c.freed) :
    (c.drain p).Conserves := by
  have draining : (c.modPort p fun x => { x.withdraw with admin := .draining }).Conserves :=
    hc.modPort hn (.of_eq rfl rfl (.inr rfl)) (Port.withdraw_creditsLawful (hc.port p).capacity nofun)
  unfold Event.drain
  split
  · exact draining.drainChecks _ _
  all_goals exact hc

theorem Event.Conserves.disable {c : Event} (hc : c.Conserves) {p : PortId} (hn : ∀ k, (p, k) ∉ c.freed) :
    (c.disable p).Conserves := by
  have disabled : (c.modPort p fun x => { x.withdraw with admin := .disabled }).Conserves :=
    hc.modPort hn (.of_eq rfl rfl (.inr rfl)) (Port.withdraw_creditsLawful (hc.port p).capacity nofun)
  unfold Event.disable
  split
  · exact disabled.outputUnavailable p
  · exact disabled.outputUnavailable p
  · exact hc

theorem Ends.conserves {c : Event} (hc : c.Conserves) : Ends State.Conserves (.next c.finish) := .next hc.finish

section

variable {s : State} (hs : s.Conserves)
include hs

/-- An event that leaves the credits of every port. -/
theorem State.Conserves.quiet {c : Event} (h : (Event.start s).Quiet c) : c.finish.Conserves := (hs.start.quiet h).finish

theorem State.Conserves.ends_quiet {c : Event} (h : (Event.start s).Quiet c) : Ends State.Conserves (.next c.finish) :=
  .next (hs.quiet h)

/-- A receiver that neither enters nor leaves UP leaves the credits of its port. -/
theorem State.Conserves.ends_rx {p : PortId} {r : Receiver} (h : r.link = .up ↔ (s.port p).rx.link = .up) :
    Ends State.Conserves (.next ((Event.start s).modPort p fun x => { x with rx := r }).finish) := by
  refine hs.ends_quiet (Event.modPort_quiet ⟨.of_eq rfl rfl (.inr rfl), ?_, rfl⟩)
  rw [Bool.eq_iff_iff, Port.lends_iff, Port.lends_iff]
  exact and_congr_left fun _ => h

/-- What a command from the holder is answered keeps what its event keeps. -/
theorem State.Conserves.held {a : Answer} {sp : SupPort} {code : Byte}
    (ha : a.Leads fun c => c.finish.Conserves) :
    Ends State.Conserves (.next (s.answered sp code (s.holderOnly sp a))) :=
  .held (fun _ _ _ _ _ h => h) hs ha

theorem State.Conserves.execHold (p : PortId) : Ends State.Conserves (execHold p s) := by
  have held (x : Port) : x.Quiet { x with tx := x.tx.toHeld } := by
    refine .of_tx (.inr ?_)
    show (x.tx.service.map _).map _ = _
    cases x.tx.service <;> rfl
  unfold Machine.execHold
  split
  · split
    · exact hs.ends_quiet (((Event.start s).markHead_quiet p).trans (Event.modPort_quiet (held _)))
    · exact hs.ends_quiet (Event.modPort_quiet (held _))
    all_goals exact .next hs
  · exact .next hs

theorem State.Conserves.execRelease (p : PortId) : Ends State.Conserves (execRelease p s) := by
  unfold Machine.execRelease
  split
  · split
    · split
      · refine hs.ends_quiet (Event.modPort_quiet (.of_tx (.inr ?_)))
        show ((s.port p).tx.service.map _).map _ = (s.port p).tx.service.map _
        cases (s.port p).tx.service <;> rfl
      · exact .conserves ((hs.start.quiet (Event.modPort_quiet (.of_eq rfl rfl rfl rfl rfl (.inr rfl)))).pickCheck p)
    · exact .conserves ((hs.start.quiet ((Event.modPort_quiet (.of_eq rfl rfl rfl rfl rfl (.inr rfl))).trans
        (Event.raise_quiet _ _))).pickCheck p)
    all_goals exact .next hs
  · exact .next hs

theorem State.Conserves.execMarkerReceived (p : PortId) (w : ControlWord) :
    Ends State.Conserves (execMarkerReceived p w s) := by
  unfold Machine.execMarkerReceived
  dsimp only
  split
  · split
    · exact .next hs
    · next hl =>
      refine hs.ends_rx ?_
      unfold Receiver.holdoffMarker
      split <;> simp [hl]
    · next hl =>
      split
      · split
        · exact .conserves (hs.start.enterUp (by simp) _)
        · exact hs.ends_rx .rfl
      · exact hs.ends_rx .rfl
    · next hl =>
      split
      · exact hs.ends_rx .rfl
      · split
        · exact .conserves (hs.start.enterDown (by simp))
        · exact hs.ends_rx .rfl
  · exact .next hs

theorem State.Conserves.execDeparture (o : PortId) : Ends State.Conserves (execDeparture o s) := by
  unfold Machine.execDeparture
  split
  · next src hsrc =>
    refine .conserves (hs.start.depart ?_)
    show ∃ v ∈ (s.port o).tx.service, v.src = src
    unfold Transmitter.sendingCell at hsrc
    split at hsrc
    · next v _ hv =>
      split at hsrc
      · exact ⟨v, hv, Option.some.inj hsrc⟩
      · cases hsrc
    · cases hsrc
  · exact .next hs

/-- The completions of words end their unit and move at most what a CREDIT word brings (R53, R56). -/
theorem State.Conserves.execCreditWordCompletion (o : PortId) : Ends State.Conserves (execCreditWordCompletion o s) := by
  unfold Machine.execCreditWordCompletion
  split
  · exact .conserves (hs.start.modPort (by simp) (.of_eq rfl rfl (.inr (by simp)))
      ((hs o).1.wordDone (x := s.port o) rfl (fun _ => rfl) rfl))
  · exact .next hs

theorem State.Conserves.execResyncCompletion (o : PortId) : Ends State.Conserves (execResyncCompletion o s) := by
  have resynced :
      ({ s.port o with account := { (s.port o).account with resyncPending := false } } : Port).CreditsLawful := by
    obtain ⟨hc, hw, hcap, hr, hword⟩ := (hs o).1
    refine ⟨hc, fun hl => ?_, hcap, hr, hword⟩
    obtain ⟨hz, hl, -, hv⟩ := hw hl
    exact ⟨hz, hl, rfl, hv⟩
  unfold Machine.execResyncCompletion
  split
  · refine .conserves (hs.start.modPort (by simp) (.of_eq rfl rfl (.inr (by simp))) ?_)
    split
    · exact resynced
    · exact (hs o).1
  · exact .next hs

end

/-- The commands that change no port: readings, and what is about the shared blocks and the management ports alone. -/
def leavesPorts : Instr → Bool
  | .idleReceived _ | .wordDropped _ | .abortedCell _ | .mastershipTimerExpiry | .transactionAbandoned _
  | .unknownCommand _ _ | .status _ _ | .portRead _ _ | .queueRead _ _ | .replicationRead _ _ | .creditRead _ _
  | .groupRead _ _ | .groupProbe _ _ | .arbiterRead _ _ | .monitorRead _ _ | .meterRead _ _ | .countersRead _ _
  | .noticesRead _ _ | .noticesClear _ _ | .noticeConfig _ _ | .claim _ _ | .relinquish _ _ | .keepalive _ _
  | .groupInstall _ _ | .groupRemove _ _ | .groupRemoveId _ _ | .groupFlush _ _ | .meterSet _ _ | .meterStart _ _
  | .meterStop _ _ | .meterCapture _ _ | .timerPeriod _ _ => true
  | _ => false

/-- Such a command leaves every port as it stands. -/
theorem exec_leavesPorts (i : Instr) (s : State) (hi : leavesPorts i = true) :
    Ends (fun t => t.ports = s.ports) (exec i s) := by
  have shared {c : Event} (hp : c.ports = s.ports) (hf : c.freed = []) : c.finish.ports = s.ports := by
    rw [Event.finish_of_freed_nil c hf]
    exact hp
  have same : (Event.start s).finish.ports = s.ports := shared rfl rfl
  have answered {a : Answer} {sp : SupPort} {code : Byte} (ha : a.Leads fun c => c.finish.ports = s.ports) :
      Ends (fun t => t.ports = s.ports) (.next (s.answered sp code a)) :=
    .next (State.answered_induct (fun t => t.ports = s.ports) (fun _ _ _ _ _ h => h) rfl ha sp code)
  have held {a : Answer} {sp : SupPort} {code : Byte} (ha : a.Leads fun c => c.finish.ports = s.ports) :
      Ends (fun t => t.ports = s.ports) (.next (s.answered sp code (s.holderOnly sp a))) :=
    .held (I := fun t => t.ports = s.ports) (fun _ _ _ _ _ h => h) rfl ha
  cases i
  case idleReceived | wordDropped | abortedCell | transactionAbandoned => exact .next rfl
  case mastershipTimerExpiry =>
    show Ends _ (execMastershipTimerExpiry s)
    unfold execMastershipTimerExpiry
    split
    · split <;> exact .next (shared rfl rfl)
    · exact .next rfl
  case unknownCommand sp record =>
    show Ends _ (execUnknownCommand sp record s)
    unfold execUnknownCommand
    split
    · split
      · exact answered trivial
      · split
        · exact .next rfl
        · exact answered trivial
    · exact .next rfl
  case status | portRead | queueRead | replicationRead | creditRead | groupRead | groupProbe | arbiterRead |
      monitorRead | meterRead | countersRead | noticesRead =>
    refine answered ?_
    split
    · simp [same]
    · trivial
  case noticesClear =>
    refine answered ?_
    split
    · trivial
    · split
      · trivial
      · split
        · trivial
        · split
          · trivial
          · exact shared rfl rfl
  case noticeConfig =>
    refine answered ?_
    split
    · simp only [Answer.leads_named, Answer.leads_done]
      exact fun _ _ _ _ => shared rfl rfl
    · trivial
  case claim =>
    refine answered ?_
    split
    · split
      · exact shared rfl rfl
      · split <;> simp [same]
    · trivial
  case relinquish | keepalive | groupRemove | groupRemoveId | groupFlush | meterStart | meterStop |
      meterCapture | timerPeriod =>
    refine held ?_
    split
    · simp only [Answer.leads_below, Answer.leads_named, Answer.leads_done]
      intros
      exact shared rfl rfl
    · trivial
  case groupInstall =>
    refine held ?_
    split
    · simp only [Answer.leads_below, Answer.leads_named]
      intros
      split
      · trivial
      · exact shared (by simp) (by simp)
    · trivial
  case meterSet =>
    refine held ?_
    split
    · simp only [Answer.leads_below, Answer.leads_meterSelector, Answer.leads_named]
      intros
      split
      · trivial
      · exact shared rfl rfl
    · trivial
  all_goals cases hi

theorem State.Conserves.of_ports {s t : State} (hs : s.Conserves) (h : t.ports = s.ports) : t.Conserves := by
  have hp (q : PortId) : t.port q = s.port q := congrArg (Table.get · q) h
  refine fun p => ⟨(hp p).symm ▸ (hs p).1, headLaw_mono (hs p).2 (fun v hv => ⟨v, hp p ▸ hv, rfl⟩) fun i c => ?_⟩
  rw [hp]

/-- Every command keeps the laws of credits. -/
theorem exec_conserves (i : Instr) {s : State} (hs : s.Conserves) : Ends State.Conserves (exec i s) := by
  have leaves (h : leavesPorts i = true) : Ends State.Conserves (exec i s) := fun t ht =>
    hs.of_ports (exec_leavesPorts i s h t ht)
  cases i
  case powerUpReset => exact .next (State.powerUp_conserves _)
  case lockAcquired p =>
    show Ends _ (execLockAcquired p s)
    unfold execLockAcquired
    split
    · next h =>
      refine hs.ends_rx (r := (s.port p).rx.acquire) ?_
      unfold Receiver.acquire
      split <;> simp [h.2]
    · exact .next hs
  case lockLost p cut =>
    show Ends _ (execLockLost p cut s)
    unfold execLockLost
    split
    · dsimp only
      split
      · exact .conserves ((hs.start.quiet (Event.count_quiet _ p _)).enterDown
          (by rw [(Event.count_quiet _ p _).freed]; simp))
      · exact .conserves (hs.start.enterDown (by simp))
    · exact .next hs
  case markerReceived p w => exact hs.execMarkerReceived p w
  case hold p => exact hs.execHold p
  case release p => exact hs.execRelease p
  case controlErrorWord p =>
    show Ends _ (execControlErrorWord p s)
    unfold execControlErrorWord
    split
    · exact hs.ends_quiet ((Event.count_quiet _ p _).trans (Event.guardFault_quiet _ p _))
    · exact .next hs
  case cellReceptionComplete p data closed =>
    show Ends _ (execCellReceptionComplete p data closed s)
    unfold execCellReceptionComplete
    split
    · exact .conserves (hs.classify p data closed)
    · exact .next hs
  case unitBoundary o =>
    show Ends _ (execUnitBoundary o s)
    unfold execUnitBoundary
    split
    · exact .conserves (hs.boundary o)
    · exact .next hs
  case departure o => exact hs.execDeparture o
  case creditWordCompletion o => exact hs.execCreditWordCompletion o
  case resyncCompletion o => exact hs.execResyncCompletion o
  case congestionWordCompletion o =>
    show Ends _ (execCongestionWordCompletion o s)
    unfold execCongestionWordCompletion
    split
    · exact hs.ends_quiet (Event.modPort_quiet (Port.endUnit_quiet _ _))
    · exact .next hs
  case holdTimerExpiry o =>
    show Ends _ (execHoldTimerExpiry o s)
    unfold execHoldTimerExpiry
    split
    · exact .conserves ((hs.start.quiet ((Event.modPort_quiet (.of_eq rfl rfl rfl rfl rfl (.inr rfl))).trans
        (Event.raise_quiet _ _))).outputUnavailable o)
    · exact .next hs
  case portAdminEnable =>
    refine hs.held ?_
    split
    · simp only [Answer.leads_below, Answer.leads_named, Answer.leads_done]
      exact fun _ _ _ => (hs.start.enable (by simp)).finish
    · trivial
  case portAdminDrain =>
    refine hs.held ?_
    split
    · simp only [Answer.leads_below, Answer.leads_named, Answer.leads_done]
      exact fun _ _ _ => (hs.start.drain (by simp)).finish
    · trivial
  case portAdminDisable =>
    refine hs.held ?_
    split
    · simp only [Answer.leads_below, Answer.leads_named, Answer.leads_done]
      exact fun _ _ _ => (hs.start.disable (by simp)).finish
    · trivial
  case portReset =>
    refine hs.held ?_
    split
    · simp only [Answer.leads_below, Answer.leads_done]
      exact fun _ => (hs.start.resetPort (by simp)).finish
    · trivial
  case portResync =>
    refine hs.held ?_
    split
    · rw [Answer.leads_below]
      intro h
      split
      · next hl =>
        exact (hs.start.modPort (by simp) (.of_eq rfl rfl (.inr rfl)) (Port.issue_creditsLawful (hs _).1.2.2.1 hl)).finish
      · exact hs.start.finish
    · trivial
  case linkParams =>
    refine hs.held ?_
    split
    · simp only [Answer.leads_below, Answer.leads_done]
      exact fun _ => hs.quiet (Event.modPort_quiet (.of_eq rfl rfl rfl rfl rfl (.inr rfl)))
    · trivial
  case guardSet =>
    refine hs.held ?_
    split
    · simp only [Answer.leads_below, Answer.leads_named, Answer.leads_done]
      exact fun _ _ _ _ _ => hs.quiet ((Event.modPort_quiet (.of_eq rfl rfl rfl rfl rfl (.inr rfl))).trans
        (Event.raiseIf_quiet _ _ _))
    · trivial
  case guardResume =>
    refine hs.held ?_
    split
    · simp only [Answer.leads_below, Answer.leads_done]
      exact fun _ => hs.quiet (Event.clearGuard_quiet _ _)
    · trivial
  case weightStage | expressSet =>
    refine hs.held ?_
    split
    · simp only [Answer.leads_below, Answer.leads_done]
      intros
      exact hs.quiet (Event.modArbiter_quiet _ _ _)
    · trivial
  case weightStageRow =>
    refine hs.held ?_
    split
    · split
      · simp only [Answer.leads_below, Answer.leads_done]
        exact fun _ => hs.quiet (Event.modArbiter_quiet _ _ _)
      · trivial
    · trivial
  case holdLimit =>
    refine hs.held ?_
    split
    · simp only [Answer.leads_below, Answer.leads_named, Answer.leads_done]
      exact fun _ _ _ => hs.quiet (Event.modPort_quiet (.of_eq rfl rfl rfl rfl rfl (.inr rfl)))
    · trivial
  case thresholds =>
    refine hs.held ?_
    split
    · simp only [Answer.leads_below, Answer.leads_done]
      exact fun _ => hs.quiet ((Event.modPort_quiet (.of_eq rfl rfl rfl rfl rfl (.inr rfl))).trans
        (Event.evaluate_quiet _ _))
    · trivial
  case countersClear =>
    refine hs.held ?_
    split
    · simp only [Answer.leads_below, Answer.leads_done]
      exact fun _ => hs.quiet (Event.modPort_quiet (.of_eq rfl rfl rfl rfl rfl (.inr rfl)))
    · trivial
  case fabricReset =>
    refine hs.held ?_
    split
    · exact (Event.fabricReset_conserves rfl).finish
    · trivial
  all_goals exact leaves rfl

/-- The laws of credits in the words of the statement. -/
theorem State.conserves_iff (s : State) : s.Conserves ↔ ∀ p, CreditLaw (s.port p) ∧ WithdrawnLaw (s.port p) ∧
    CapacityLaw (s.port p) ∧ ReturnLaw (s.port p).account ∧ WordLaw (s.port p).account ∧ HeadLaw s p := by
  simp only [State.Conserves, Port.CreditsLawful, and_assoc]

end Sys2Proof.Machine

namespace Sys2Proof.Proofs

open Sys2Proof Sys2Proof.Machine Sys2Proof.Safety

/-- Settles O56: every shared operation leaves the credits of a port, moves them within the sum of R49 or makes the account
anew, and a command is such operations one after the other. -/
theorem stepConservesCredits : Obligations.StepConservesCredits := by
  intro s t hs ht
  exact (State.conserves_iff t).1 (step_keeps (I := State.Conserves) (fun _ _ h => h) (fun i _ h => exec_conserves i h)
    ((State.conserves_iff s).2 hs) ht)

end Sys2Proof.Proofs

/-! # Credit issues and completed words (O18, O19) -/

namespace Sys2Proof.Proofs

open Sys2Proof Sys2Proof.Machine Sys2Proof.Safety

/-- Settles O18: the fields that an issue writes, and the free space it is made from. -/
theorem creditIssueRebuildsTheAccount : Obligations.CreditIssueRebuildsTheAccount := by
  refine ⟨⟨fun o => ⟨rfl, capacity_unicast o .bulk, rfl, capacity_unicast o .express⟩, rfl, rfl, fun x =>
    ⟨fun o c => x.occupancy_unicast o c, rfl⟩⟩, fun x => ?_⟩
  have hspace (k : Key) : x.freeSpace.get k = capacity k - x.occupancy k := Table.get_ofFn _ _
  refine ⟨?_, fun k => ⟨Table.get_fill _ _, hspace k⟩, fun k => ?_, ?_, rfl, rfl, rfl, rfl⟩
  · show (x.epoch + 1#3).toNat = _
    rw [BitVec.toNat_add]
    rfl
  · show k ∈ allKeys.filter (fun k => x.freeSpace.get k != 0) ↔ _
    rw [List.mem_filter, hspace, bne_iff_ne]
    exact ⟨fun h => by omega, fun h => ⟨mem_allKeys k, by omega⟩⟩
  · exact List.Pairwise.filter _ (List.pairwise_lt_finRange 49)

/-- Settles O19: each completion is one change of its port, and the entries of a CREDIT word that names each key once move
independently of each other. -/
theorem wordCompletions : Obligations.WordCompletions := by
  intro s o x ended
  -- the unit on the link is a word, so its end raises the spacing counter and owes nothing
  have hended {u : LinkUnit} (hu : x.tx.onLink = some u) (hc : isCell u = false) (hm : u ≠ .marker) :
      x.tx.endUnit .whole = ended := by
    rw [Transmitter.endUnit_eq, hu]
    simp [hc, hm, ended, x]
  refine ⟨fun e l word hl hf => ?_, fun e hl => ?_, fun map hl => ?_⟩
  · have completes : exec (.creditWordCompletion o) s =
        .next (withPort s o { x with account := x.account.wordDone, tx := ended }) := by
      show execCreditWordCompletion o s = _
      unfold execCreditWordCompletion
      rw [show (s.port o).tx.onLink = some (.credit e l) from hl, ← hended hl rfl nofun]
      exact congrArg Host.Outcome.next (Event.finish_modPort s o _)
    rw [completes]
    refine ⟨fun hv => ?_, fun hv hnd => ?_⟩
    · simp only [Account.wordDone, hf, hv, if_true]
    · simp only [Account.wordDone, hf, hv, Bool.false_eq_true, if_false, Account.foldl_credit hnd]
      rfl
  · show execResyncCompletion o s = _
    unfold execResyncCompletion
    rw [show (s.port o).tx.onLink = some (.resync e) from hl, ← hended hl rfl nofun]
    exact congrArg Host.Outcome.next (Event.finish_modPort s o _)
  · show execCongestionWordCompletion o s = _
    unfold execCongestionWordCompletion
    rw [show (s.port o).tx.onLink = some (.congestion map) from hl, ← hended hl rfl nofun]
    exact congrArg Host.Outcome.next (Event.finish_modPort s o _)

end Sys2Proof.Proofs

/-! # The state after power-up reset (O4) -/

namespace Sys2Proof.Safety

open Sys2Proof Sys2Proof.Machine

/-- A port after power-up reset meets every law of a port: its link is DOWN, it is DISABLED, and it holds nothing. -/
theorem portLaw_powerUp : PortLaw Port.powerUp := by
  obtain ⟨hcredit, hwithdrawn, hcapacity, hreturn, hword⟩ := Port.powerUp_creditsLawful
  obtain ⟨hrx, hguard⟩ := Port.powerUp_guarded
  have hqueue (o : PortId) (c : Machine.Class) : Port.powerUp.queue o c = [] := Port.queue_of_fill rfl o c
  refine ⟨hrx, hguard, ?_, ?_, hreturn, hwithdrawn, hword, hcredit, hcapacity, nofun, fun o => ?_, ?_, ?_, nofun, nofun, ?_⟩
  · unfold ArbiterLaw; decide
  · unfold MonitorLaw; decide
  · simp [hqueue]
  · unfold TransmitterLaw; decide
  · unfold SpacingLaw; decide
  · unfold FlightLaw; decide

theorem groupLaw_powerUp : GroupLaw GroupSet.powerUp := by
  unfold GroupLaw; decide

theorem meterLaw_powerUp : MeterLaw Meter.powerUp := by
  unfold MeterLaw; decide

theorem noticeLaw_powerUp : NoticeLaw NoticeUnit.powerUp := by
  unfold NoticeLaw; simp [NoticeUnit.powerUp]

end Sys2Proof.Safety

namespace Sys2Proof.Proofs

open Sys2Proof Sys2Proof.Machine Sys2Proof.Safety

/-- Settles O4: block by block at its power-up values, and nothing waits anywhere. -/
theorem resetStateIsLawful : Obligations.ResetStateIsLawful := by
  have hport (p : PortId) : State.reset.port p = Port.powerUp := Table.get_fill _ _
  have hqueue (o : PortId) (c : Machine.Class) : Port.powerUp.queue o c = [] := Port.queue_of_fill rfl o c
  have hcopies : Port.powerUp.copies = [] := rfl
  have hservice : Port.powerUp.tx.service = none := rfl
  refine ⟨fun p => hport p ▸ portLaw_powerUp, fun o _ i => ?_, fun o => ?_, fun o => ⟨headLaw_of_none ?_, fun i => ?_⟩,
    noticeLaw_powerUp, noticeLaw_powerUp, ?_, fun g => ?_, fun m => ?_⟩
  · simp [hport, hqueue, hcopies]
  · have hwaiting : Port.powerUp.monitor.waiting = 0 := rfl
    simp [State.owed, State.cellsToward, State.copiesToward, hport, hqueue, hcopies, hwaiting]
  · rw [hport, hservice]
  · rw [hport, hport, hcopies, hservice]; rfl
  · unfold MasterLaw; decide
  · exact (Table.get_fill GroupSet.powerUp g).symm ▸ groupLaw_powerUp
  · exact (Table.get_fill Meter.powerUp m).symm ▸ meterLaw_powerUp

end Sys2Proof.Proofs

/-! # Reading commands (O48) -/

namespace Sys2Proof.Machine

open Sys2Proof Sys2Proof.Safety

/-- A reading command that answers with data leaves the rest of the state (R172). -/
theorem next_reads (s : State) (sp : SupPort) (code : Byte) (d : RespData) :
    (.next (s.answered sp code (s.reads d)) : Host.Outcome State Fault Refusal) = .next (s.respond sp code .ok d) :=
  congrArg _ (State.answered_reads s sp code d)

/-- An argument that spells a number below the bound is taken as that number (R171, test 5). -/
theorem below_of_val {n pos x : Nat} (k : Fin n) (h : x = k.val) (f : Fin n → Answer) : below n pos x f = f k := by
  subst h
  exact below_of_lt k.isLt f

/-- A reading command about one port (R172). -/
theorem next_portReading (s : State) (sp : SupPort) (code : Byte) (p : PortId) (d : PortId → RespData) :
    (.next (s.answered sp code (below 24 1 (portByte p).toNat fun q => s.reads (d q))) : Host.Outcome State Fault Refusal) =
      .next (s.respond sp code .ok (d p)) := by
  rw [below_portByte, next_reads]

/-- QUEUE_READ shows each entry from the head, and the head alone in service (R46, R48). -/
theorem State.queueItems_length (s : State) (i o : PortId) (c : Class) :
    (s.queueItems i o c).length = ((s.port i).queue o c).length := by
  unfold State.queueItems
  split <;> simp [*]

theorem State.headInService_eq (s : State) (i o : PortId) (c : Class) :
    s.headInService i o c = decide ((s.port o).tx.service.map (·.src) = some (.cell i c)) := by
  unfold State.headInService
  split <;> simp [*, Bool.beq_eq_decide_eq]

theorem State.queueItems_getElem? (s : State) (i o : PortId) (c : Class) (n : Nat) (e : CellEntry)
    (h : ((s.port i).queue o c)[n]? = some e) : (s.queueItems i o c)[n]? = some (
      { flow := e.flow, plane := e.plane, restart := e.restart
        inService := decide (n = 0 ∧ (s.port o).tx.service.map (·.src) = some (.cell i c)) } : QueueItem) := by
  unfold State.queueItems
  split
  · next hq => rw [hq] at h; cases h
  · next a l hq =>
    rw [hq] at h
    cases n with
    | zero =>
      obtain rfl := Option.some.inj h
      simp [State.headInService_eq]
    | succ n =>
      rw [List.getElem?_cons_succ] at h ⊢
      simp [h]

end Sys2Proof.Machine

namespace Sys2Proof.Proofs

open Sys2Proof Sys2Proof.Machine Sys2Proof.Safety

/-- Settles O48: each command tests its arguments and answers by a reading. -/
theorem readsReturnTheStateAsItStands : Obligations.ReadsReturnTheStateAsItStands := by
  constructor
  · intro s sp flags
    refine ⟨next_reads _ _ _ _, fun p => ⟨⟨s.servedPosition p, ?_, fun v i hv hsrc => ?_⟩, ?_, ?_, ?_, ?_, ?_⟩,
      fun i o => ⟨s.queueItems i o .express, s.queueItems i o .bulk, ?_,
        ⟨s.queueItems_length i o _, fun n e => s.queueItems_getElem? i o _ n e⟩,
        ⟨s.queueItems_length i o _, fun n e => s.queueItems_getElem? i o _ n e⟩⟩, fun m => ?_⟩
    · exact next_portReading s sp 0x02#8 p fun p => .port (s.portData p)
    · obtain ⟨src, ab, st⟩ := v
      obtain rfl : src = .copy i := hsrc
      simp only [State.servedPosition, show (s.port p).tx.service = _ from hv]
    · exact next_portReading s sp 0x04#8 p fun p => .replication ((s.port p).copies.map s.copyItem)
    · exact next_portReading s sp 0x05#8 p fun p => .credit (s.port p).epoch (s.port p).account.resyncPending
        (s.port p).account.inFlight (allKeys.map (s.port p).keyCounts) (s.port p).account.returnList
    · exact next_portReading s sp 0x08#8 p fun p => .arbiter (s.port p).arbiter
    · exact next_portReading s sp 0x09#8 p fun p => .monitor (s.port p).monitor.waiting (s.cellsToward p .express)
        (s.cellsToward p .bulk) (s.copiesToward p) (s.port p).monitor.th (s.port p).monitor.tl (s.port p).monitor.flag
        s.congestionMap
    · exact next_portReading s sp 0x0B#8 p fun p => .counters (s.port p).counters
    · show Host.Outcome.next (s.answered sp 0x03#8 (below 24 1 (portByte i).toNat _)) = _
      rw [below_portByte, below_portByte, next_reads]
    · show Host.Outcome.next (s.answered sp 0x0A#8 (below 8 1 (BitVec.ofNat 8 m.val).toNat _)) = _
      rw [below_meter, next_reads]
  · intro s sp
    constructor
    · intro set w g
      have hset : arg16 0#8 (BitVec.ofNat 8 set.val) = set.val := by
        have := fin_toNat (le_refl 256) set
        simp only [arg16, this]
        simp
      have hw : (BitVec.ofNat 8 w.val).toNat = w.val := fin_toNat (by decide) w
      show Host.Outcome.next (s.answered sp 0x06#8 (below 256 1 (arg16 0#8 (BitVec.ofNat 8 set.val)) _)) = _
      rw [below_of_val set hset, below_of_val w hw, next_reads]
      rfl
    · intro hi lo code c hid hc g
      have hcls : classArg code = some c := by
        simp only [List.mem_cons, Prod.mk.injEq, List.not_mem_nil, or_false] at hc
        rcases hc with ⟨rfl, rfl⟩ | ⟨rfl, rfl⟩ <;> rfl
      show Host.Outcome.next (s.answered sp 0x07#8 (below 4096 1 (arg16 hi lo) _)) = _
      rw [below_of_lt (show arg16 hi lo < 4096 from hid), hcls, named_some, next_reads]
      rfl

end Sys2Proof.Proofs

/-! # Departures of crosspoint cells (O28) -/

namespace Sys2Proof.Machine

open Sys2Proof Sys2Proof.Safety

/-! ### The meters take a departure (R148, R149) -/

/-- The count of a meter that keeps its range, in the statements' words (R148). -/
theorem Meter.counted_eq {m : Meter} (hm : m.count < 4294967296) (d : Departed) :
    m.counted d = { m with count := meterCount m d } := by
  unfold Meter.counted Meter.raised meterCount
  split
  · cases m.mode <;> dsimp only <;> congr 1 <;> split <;> omega
  · rfl

theorem Meter.stepInterval_eq (m : Meter) : m.stepInterval =
    if m.interval = 0 then m
    else if m.seen + 1 = m.interval then { m with snapshot := m.count, count := 0, seen := 0 }
    else { m with seen := m.seen + 1 } := by
  unfold Meter.stepInterval Meter.closes
  by_cases h : m.interval = 0 <;> simp [h]

theorem meterAfter_eq {m : Meter} (hm : m.count < 4294967296) (o : PortId) (d : Departed) :
    (if m.sees o then (m.counted d).stepInterval else m) = meterAfter m o d := by
  have hsees : m.sees o = true ↔ m.running = true ∧ m.target = o := by simp [Meter.sees]
  rw [Meter.counted_eq hm, Meter.stepInterval_eq]
  unfold meterAfter
  simp only [hsees]

/-- Notices raised under conditions one after the other. -/
theorem Event.foldl_raiseIf {α : Type} (b : α → Bool) (n : α → Notice) (l : List α) (c : Event) :
    let r := l.foldl (fun e k => e.raiseIf (b k) (n k)) c
    r.toState = c.toState ∧ r.raised = c.raised ++ (l.filter b).map n ∧ r.freed = c.freed := by
  induction l generalizing c with
  | nil => simp
  | cons a l ih =>
    obtain ⟨hs, hr, hf⟩ := ih (c.raiseIf (b a) (n a))
    refine ⟨hs.trans (Event.raiseIf_toState _ _ _), ?_, hf.trans (Event.raiseIf_freed _ _ _)⟩
    rw [List.foldl_cons, hr, Event.raiseIf_raised]
    cases hb : b a <;> simp [hb]

/-- A departure changes the meters that see it, and those that close their interval raise CAPTURE (R148, R149). -/
theorem Event.meterDeparture_raises (c : Event) (o : PortId) (d : Departed) :
    (c.meterDeparture o d).toState =
        { c.toState with meters := c.meters.map fun m => if m.sees o then (m.counted d).stepInterval else m } ∧
      (c.meterDeparture o d).raised = c.raised ++ captures c.toState o ∧ (c.meterDeparture o d).freed = c.freed := by
  obtain ⟨hs, hr, hf⟩ := Event.foldl_raiseIf (fun k => (c.meters.get k).sees o && (c.meters.get k).closes) .capture
    allMeters { c with meters := c.meters.map fun m => if m.sees o then (m.counted d).stepInterval else m }
  refine ⟨hs, hr.trans ?_, hf⟩
  simp only [captures, Meter.sees, Meter.closes, Bool.and_assoc]

/-- The meters after a departure in the statements' words (R148, R149). -/
theorem Event.meterDeparture_eq {c : Event} (hm : ∀ m, MeterLaw (c.meters.get m)) (o : PortId) (d : Departed) :
    (c.meterDeparture o d).toState = { c.toState with meters := .ofFn fun m => meterAfter (c.meters.get m) o d } := by
  refine (c.meterDeparture_raises o d).1.trans ?_
  refine congrArg (fun t => ({ c.toState with meters := t } : State)) (Table.ext_get fun m => ?_)
  rw [Table.get_map, Table.get_ofFn, meterAfter_eq (hm m).2.1]

/-! ### What follows a cell that has left (R125) -/

/-- The output takes note of a cell that has left: its waiting count and flag, the meters, and the check of its arbiter. -/
theorem Event.noteDeparture_eq {c : Event} (hm : ∀ m, MeterLaw (c.meters.get m)) (o : PortId) (n : Nat) (d : Departed) :
    let r := ((c.setWaiting o n).meterDeparture o d).pickCheck o
    r.toState = afterPick { waited c.toState o n with meters := .ofFn fun m => meterAfter (c.meters.get m) o d } o ∧
      r.raised = c.raised ++ flagEdge c.toState o n ++ captures c.toState o ∧ r.freed = c.freed := by
  obtain ⟨ws, wr, wf⟩ := c.setWaiting_eq o n
  have hmeters : (c.setWaiting o n).meters = c.meters := (c.setWaiting_shared o n).2.1
  have ms := Event.meterDeparture_eq (c := c.setWaiting o n) (by rwa [hmeters]) o d
  obtain ⟨-, mr, mf⟩ := (c.setWaiting o n).meterDeparture_raises o d
  obtain ⟨ps, pr, pf⟩ := ((c.setWaiting o n).meterDeparture o d).pickCheck_eq o
  have hcap : captures (c.setWaiting o n).toState o = captures c.toState o := by
    unfold captures
    rw [hmeters]
  refine ⟨ps.trans ?_, pr.trans (mr.trans ?_), pf.trans (mf.trans wf)⟩
  · rw [ms, hmeters, ws]
  · rw [wr, hcap]

/-- The notices of a departure stand in the order of R186: the edge of CONGESTION before the captures, these by meter. -/
theorem sortNotices_departure (s : State) (o : PortId) (n : Nat) :
    sortNotices (flagEdge s o n ++ captures s o) = flagEdge s o n ++ captures s o := by
  refine sortNotices_of_pairwise (List.pairwise_append.2 ⟨?_, ?_, fun a ha b hb => ?_⟩)
  · unfold flagEdge
    split <;> simp
  · refine List.pairwise_map.2 (List.Pairwise.filter _ ?_)
    exact (by decide : allMeters.Pairwise (· < ·)).imp fun {a b} h => by simp [noticeBefore, Notice.pair, h.le]
  · obtain ⟨x, rfl⟩ := mem_flagEdge ha
    obtain ⟨m, -, rfl⟩ := List.mem_map.1 hb
    rfl

/-- An event that freed one place to an input lists its key where the input lends (R50, R51). -/
theorem Event.finish_listed {c : Event} {i : PortId} {k : Key}
    (hf : c.freed = if (c.port i).lends then [(i, k)] else []) :
    c.finish = notify (listed c.toState i k) (sortNotices c.raised) := by
  unfold listed
  by_cases hl : (c.port i).lends = true
  · rw [if_pos hl] at hf
    rw [Event.finish_of_freed_one c hf, if_pos ((Port.lends_iff _).1 hl)]
  · rw [if_neg hl] at hf
    rw [Event.finish_of_freed_nil c hf, if_neg fun h => hl ((Port.lends_iff _).2 h)]

/-! ### Drains that do not complete (R162) -/

theorem Port.holdsNothing_iff (x : Port) : x.holdsNothing = true ↔ x.Empty := by
  have hqueues : (∀ l ∈ x.queues.toList, l = []) ↔ ∀ o c, x.queue o c = [] := by
    constructor
    · intro h o c
      exact h _ (by simp [Port.queue, Table.get])
    · intro h l hl
      obtain ⟨n, hn, rfl⟩ := List.mem_iff_getElem.1 hl
      obtain ⟨o, c, hk⟩ := queueNo_surj ⟨n, by simpa using hn⟩
      have := h o c
      unfold Port.queue at this
      rw [hk] at this
      simpa [Table.get] using this
  unfold Port.holdsNothing Port.Empty
  rw [Bool.and_eq_true, List.all_eq_true, ← hqueues]
  simp [List.isEmpty_iff]

/-- Where the drain of no input that lost a place is over, the drain checks find nothing (R162). -/
theorem Event.drainChecks_of_not_drained (n : Nat) {l : List PortId} {c : Event} (h : ∀ i ∈ l, c.drained i = false) :
    c.drainChecks n l = c := by
  cases n with
  | zero => rfl
  | succ n =>
    unfold Event.drainChecks
    rw [List.find?_eq_none.2 fun i hi => by simp [h i hi]]

end Sys2Proof.Machine

namespace Sys2Proof.Machine

open Sys2Proof Sys2Proof.Safety

/-! ### Departures that free a place (R47, R50, R94, R125) -/

/-- What the drain check asks of an input, the waiting counts and the meters do not tell (R162). -/
theorem Event.noteDeparture_drained (c : Event) (o i : PortId) (n : Nat) (d : Departed) :
    ((c.setWaiting o n).meterDeparture o d).drained i = c.drained i := by
  have hport : ((c.setWaiting o n).meterDeparture o d).port i = (waited c.toState o n).port i := by
    rw [← (c.setWaiting_eq o n).1]
    exact (congrArg (State.port · i) ((c.setWaiting o n).meterDeparture_raises o d).1).trans rfl
  have hw : (waited c.toState o n).port i = { c.port i with
      monitor := ((waited c.toState o n).port i).monitor, tx := ((waited c.toState o n).port i).tx } := by
    simp [waited, State.port]
  unfold State.drained
  rw [hport, hw]
  rfl

/-- A port lends after a departure has been noted as before it (R49). -/
theorem Event.noteDeparture_lends (c : Event) (o i : PortId) (n : Nat) (d : Departed) :
    ((((c.setWaiting o n).meterDeparture o d).pickCheck o).port i).lends = (c.port i).lends := by
  have hpick : ((((c.setWaiting o n).meterDeparture o d).pickCheck o).port i).lends =
      (((c.setWaiting o n).meterDeparture o d).port i).lends := by
    rcases ((c.setWaiting o n).meterDeparture o d).pickCheck_port o i with h | ⟨-, -, k, -, h⟩ <;> rw [h]
    rfl
  exact hpick.trans (((Event.setWaiting_quiet c o n).trans (Event.meterDeparture_quiet _ o d)).port i).lends

/-- The state once the cell in service of `o` has left its input and freed its place there, before the output takes note. -/
def State.left (s : State) (o : PortId) (src : Source) : State :=
  withPort (withPort s o (s.port o).sent) src.input
    { ((withPort s o (s.port o).sent).port src.input).depart o src with
      account := freedAccount (s.port src.input) (src.key o) }

/-- What an output does to itself as its cell goes is no matter of the store and the credits (R125). -/
theorem withPort_sent (s : State) (o q : PortId) :
    let x := (withPort s o (s.port o).sent).port q
    x.queues = (s.port q).queues ∧ x.copies = (s.port q).copies ∧ x.account = (s.port q).account ∧
      x.lends = (s.port q).lends ∧ x.admin = (s.port q).admin ∧ x.monitor = (s.port q).monitor := by
  by_cases hq : q = o
  · rw [hq, withPort_port_self]; exact ⟨rfl, rfl, rfl, rfl, rfl, rfl⟩
  · rw [withPort_port_ne _ _ hq]; exact ⟨rfl, rfl, rfl, rfl, rfl, rfl⟩

/-- What leaves an input is no matter of monitors, of administration states and of which port lends. -/
theorem State.left_port (s : State) (o q : PortId) (src : Source) :
    ((s.left o src).port q).monitor = (s.port q).monitor ∧ ((s.left o src).port q).admin = (s.port q).admin ∧
      ((s.left o src).port q).lends = (s.port q).lends := by
  obtain ⟨-, -, -, hl, ha, hm⟩ := withPort_sent s o q
  unfold State.left
  by_cases hq : q = src.input
  · rw [hq, withPort_port_self, ← hq, ← hl, ← ha, ← hm]
    cases src <;> exact ⟨rfl, rfl, rfl⟩
  · rw [withPort_port_ne _ _ hq]
    exact ⟨hm, ha, hl⟩

/-- A cell that leaves and frees its place, whole (R47, R50, R94). -/
theorem Event.sent_leaves_eq (s : State) (o : PortId) (src : Source) :
    let r := ((Event.start s).modPort o Port.sent).leaves o src 1
    r.toState = s.left o src ∧ r.raised = [] ∧
      r.freed = if (s.port src.input).lends then [(src.input, src.key o)] else [] := by
  have hsent (q : PortId) : ((Event.start s).modPort o Port.sent).port q = (withPort s o (s.port o).sent).port q := rfl
  obtain ⟨-, -, hacc, hlends, -, -⟩ := withPort_sent s o src.input
  obtain ⟨dacc, dlends, -⟩ := Port.depart_rest o src ((withPort s o (s.port o).sent).port src.input)
  obtain ⟨hg, hm, hma, hu, hs, hp⟩ :=
    (((Event.start s).modPort o Port.sent).modPort_shared src.input (Port.depart o src)).trans
      (Event.free_shared _ src.input (src.key o) 1)
  refine ⟨State.ext_port (fun q => ?_) hg hm hma hu hs hp, by simp [Event.leaves], ?_⟩
  · show (((Event.start s).modPort o Port.sent).leaves o src 1).port q = _
    unfold Event.leaves State.left
    rw [Event.free_port, Event.modPort_port]
    by_cases hq : q = src.input
    · subst hq
      rw [if_pos rfl, if_pos rfl, withPort_port_self, hsent, Port.freePlaces_eq, Port.freePlaces_account, dlends, dacc,
        hlends, hacc]
      simp only [freedAccount, ← Port.lends_iff]
    · rw [if_neg hq, if_neg hq, withPort_port_ne _ _ hq, hsent]
  · unfold Event.leaves
    rw [Event.free_freed, Event.modPort_port_self, hsent, dlends, hlends]
    simp

/-- The departure of a cell or copy that frees its place and ends no drain, whole (R125). -/
theorem Event.finish_depart {s : State} {o : PortId} {src : Source} (hm : ∀ m, MeterLaw (s.meters.get m))
    (hfrees : (s.departing o src).2 = true) (hdrain : (s.left o src).drained src.input = false) :
    let n := (s.port o).monitor.waiting - 1
    ((Event.start s).depart o src).finish =
      notify (listed (afterPick { waited (s.left o src) o n with
        meters := .ofFn fun m => meterAfter (s.meters.get m) o (s.departing o src).1 } o) src.input (src.key o))
        (flagEdge s o n ++ captures s o) := by
  intro n
  obtain ⟨hstate, hraised, hfreed⟩ := Event.sent_leaves_eq s o src
  have hparts := Event.complete_parts (Event.start s) o src
  simp only [Event.start_toState, hfrees, if_true] at hparts
  unfold Event.depart
  rw [hparts]
  generalize ((Event.start s).modPort o Port.sent).leaves o src 1 = e at hstate hraised hfreed ⊢
  have hport (q : PortId) : e.port q = (s.left o src).port q := congrArg (State.port · q) hstate
  have hmeters : e.meters = s.meters := (congrArg State.meters hstate).trans rfl
  have hn : (e.port o).monitor.waiting - 1 = n := by rw [hport, (s.left_port o o src).1]
  have hnone : ∀ i ∈ [src.input], ((e.setWaiting o n).meterDeparture o (s.departing o src).1).drained i = false := by
    intro i hi
    rw [List.mem_singleton.1 hi, Event.noteDeparture_drained, hstate]
    exact hdrain
  obtain ⟨rs, rr, rf⟩ := Event.noteDeparture_eq (c := e) (by rwa [hmeters]) o n (s.departing o src).1
  have hedge : flagEdge e.toState o n = flagEdge s o n := flagEdge_congr ((hport o).symm ▸ (s.left_port o o src).1) n
  have hcap : captures e.toState o = captures s o := by
    unfold captures
    rw [hmeters]
  rw [hn, Event.drainChecks_of_not_drained 24 hnone, Event.finish_listed (i := src.input) (k := src.key o), rs, rr, hraised,
    hedge, hcap, List.nil_append, sortNotices_departure, hmeters, hstate]
  rw [rf, hfreed, Event.noteDeparture_lends, hport, (s.left_port o src.input src).2.2]

end Sys2Proof.Machine

namespace Sys2Proof.Proofs

open Sys2Proof Sys2Proof.Machine Sys2Proof.Safety

/-- Settles O28: the head leaves, its output takes note, and the drain check finds a cell or no drain. -/
theorem cellDeparture : Obligations.CellDeparture := by
  intro s o i c v header payload e rest x n hstate hv hstarted hsrc hlink hqueue hm hdrain sent left metered
  have hsending : x.tx.sendingCell = some (.cell i c) := by
    simp [Transmitter.sendingCell, hstate, hv, hstarted, hsrc]
  have hsent : withPort s o (s.port o).sent = sent := by
    refine congrArg (withPort s o) ?_
    show x.sent = _
    unfold Port.sent
    rw [Transmitter.endUnit_eq, hlink]
    simp [isCell, Port.count, Arbiter.refill, countedUp]
  obtain ⟨hq, hc, -⟩ := withPort_sent s o i
  rw [hsent] at hq hc
  have hqueues (q : PortId) (d : Machine.Class) : (sent.port i).queue q d = (s.port i).queue q d := by
    unfold Port.queue; rw [hq]
  have hleft : s.left o (.cell i c) = left := by
    unfold State.left
    rw [hsent]
    show withPort sent i { (sent.port i).putQueue o c ((sent.port i).queue o c).tail with
      account := freedAccount (s.port i) (unicastKey o c) } = left
    rw [hqueues, hqueue]
    rfl
  have hundrained : left.drained i = false := by
    have hadmin : (left.port i).admin = (s.port i).admin := hleft ▸ (s.left_port o i (.cell i c)).2.1
    have hcopies : (left.port i).copies = (s.port i).copies := by
      simp only [left, withPort_port_self]
      exact hc
    have hqueue' (q : PortId) (d : Machine.Class) :
        (left.port i).queue q d = if q = o ∧ d = c then rest else (s.port i).queue q d := by
      rw [← hqueues, ← Port.putQueue_queue (sent.port i) o q c d rest]
      simp only [left, withPort_port_self]
      rfl
    unfold State.drained
    rw [hadmin, Bool.and_eq_false_iff, beq_eq_false_iff_ne, ← Bool.not_eq_true (Port.holdsNothing _),
      Port.holdsNothing_iff]
    rcases hdrain with h | h | h | ⟨q, d, hne, h⟩
    · exact .inl h
    · exact .inr fun he => h (by simpa [hqueue'] using he.1 o c)
    · exact .inr fun he => h (hcopies ▸ he.2)
    · exact .inr fun he => h (by simpa [hqueue', hne] using he.1 q d)
  show execDeparture o s = _
  unfold execDeparture
  rw [show (s.port o).tx.sendingCell = _ from hsending]
  have h := Event.finish_depart (src := .cell i c) hm rfl (hleft.symm ▸ hundrained)
  rw [hleft] at h
  exact congrArg Host.Outcome.next h

end Sys2Proof.Proofs

/-! # The group table (O20, O21, O22, O23) -/

namespace Sys2Proof.Machine

open Sys2Proof Sys2Proof.Safety

/-! ### Class selectors (R68) -/

/-- Two selectors overlap exactly when some class is matched by both (R68). -/
theorem Selector.overlaps_iff (a b : Selector) :
    a.overlaps b = true ↔ ∃ c, a.covers c = true ∧ b.covers c = true := by
  simp only [Selector.overlaps, Bool.or_eq_true, Bool.and_eq_true]
  constructor
  · rintro (h | h)
    · exact ⟨_, h⟩
    · exact ⟨_, h⟩
  · rintro ⟨c, h⟩
    cases c with
    | bulk => exact .inl h
    | express => exact .inr h

theorem Selector.overlaps_comm (a b : Selector) : a.overlaps b = b.overlaps a := by
  simp only [Selector.overlaps, Bool.and_comm]

@[simp] theorem Selector.neither_overlaps (b : Selector) : Selector.neither.overlaps b = false := by
  simp [Selector.overlaps, Selector.covers]

@[simp] theorem Selector.overlaps_neither (b : Selector) : b.overlaps .neither = false := by
  rw [Selector.overlaps_comm, Selector.neither_overlaps]

/-! ### Ways of a set -/

theorem allWays_find? (f : Fin 4 → Bool) : allWays.find? f = Fin.find? f :=
  (Fin.find?_eq_find?_finRange (n := 4)).symm

/-- A search of the ways ends at the lowest way that meets the test. -/
theorem allWays_find?_eq_some {f : Fin 4 → Bool} {w : Fin 4} :
    allWays.find? f = some w ↔ f w = true ∧ ∀ v, v < w → f v = false := by
  rw [allWays_find?, Fin.find?_eq_some_iff]

theorem allWays_find?_eq_none {f : Fin 4 → Bool} : allWays.find? f = none ↔ ∀ v, f v = false := by
  rw [allWays_find?, Fin.find?_eq_none_iff]

theorem GroupSet.conflicts_iff (g : GroupSet) (tag : Nat) (sel : Selector) (w : Fin 4) :
    g.conflicts tag sel w = true ↔
      (g.ways.get w).valid = true ∧ (g.ways.get w).tag = tag ∧ (g.ways.get w).sel.overlaps sel = true := by
  simp [GroupSet.conflicts, and_assoc]

/-- The way that a lookup hits is valid, holds the tag, and its selector matches the class (R71). -/
theorem GroupSet.hit_matches {g : GroupSet} {tag : Nat} {c : Class} {w : Fin 4} (h : g.hit tag c = some w) :
    (g.ways.get w).valid = true ∧ (g.ways.get w).tag = tag ∧ (g.ways.get w).sel.covers c = true := by
  simpa [and_assoc] using (allWays_find?_eq_some.1 h).1

/-- A set without valid entries misses every lookup (R71). -/
theorem GroupSet.hit_eq_none {g : GroupSet} (h : ∀ w, (g.ways.get w).valid = false) (tag : Nat) (c : Class) :
    g.hit tag c = none :=
  allWays_find?_eq_none.2 fun w => by simp [h w]

/-- In a lawful set a lookup hits the one valid way that holds the tag and matches the class (R71, R73). -/
theorem GroupSet.hit_iff {g : GroupSet} (hg : GroupLaw g) (tag : Nat) (c : Class) (w : Fin 4) :
    g.hit tag c = some w ↔
      (g.ways.get w).valid = true ∧ (g.ways.get w).tag = tag ∧ (g.ways.get w).sel.covers c = true := by
  refine ⟨GroupSet.hit_matches, fun ⟨hv, ht, hc⟩ => ?_⟩
  cases h : g.hit tag c with
  | none => simpa [hv, ht, hc] using allWays_find?_eq_none.1 h w
  | some v =>
    obtain ⟨hv', ht', hc'⟩ := GroupSet.hit_matches h
    by_contra hne
    have hdisjoint := hg v w (fun e => hne (congrArg some e)) hv' hv (ht'.trans ht.symm)
    have hoverlap := (Selector.overlaps_iff _ _).2 ⟨c, hc', hc⟩
    rw [hdisjoint] at hoverlap
    cases hoverlap

/-- The duplicate of an install is the lowest conflicting way beside its target (R76). -/
theorem GroupSet.duplicate_eq_some {g : GroupSet} {tag : Nat} {sel : Selector} {w v : Fin 4} :
    g.duplicate tag sel w = some v ↔
      (v ≠ w ∧ g.conflicts tag sel v = true) ∧ ∀ u, u < v → u ≠ w → g.conflicts tag sel u = false := by
  simp [GroupSet.duplicate, allWays_find?_eq_some]

theorem GroupSet.duplicate_eq_none {g : GroupSet} {tag : Nat} {sel : Selector} {w : Fin 4} :
    g.duplicate tag sel w = none ↔ ∀ v, v ≠ w → g.conflicts tag sel v = false := by
  unfold GroupSet.duplicate
  rw [allWays_find?_eq_none]
  simp

/-! ### The pseudo-LRU tree (R69, R70) -/

@[simp] theorem GroupSet.touch_ways (g : GroupSet) (w : Fin 4) : (g.touch w).ways = g.ways := by
  unfold GroupSet.touch
  split <;> rfl

/-! ### The target of an install (R75) -/

section

variable {g : GroupSet} {tag : Nat} {sel : Selector} {w : Fin 4}

theorem GroupSet.target_of_conflict (hw : g.conflicts tag sel w = true)
    (hlow : ∀ v, v < w → g.conflicts tag sel v = false) : g.target tag sel none = w := by
  have h : allWays.find? (g.conflicts tag sel) = some w := allWays_find?_eq_some.2 ⟨hw, hlow⟩
  unfold GroupSet.target
  simp only [h]

theorem GroupSet.target_of_invalid (hc : ∀ v, g.conflicts tag sel v = false) (hw : (g.ways.get w).valid = false)
    (hlow : ∀ v, v < w → (g.ways.get v).valid = true) : g.target tag sel none = w := by
  have h : allWays.find? (g.conflicts tag sel) = none := allWays_find?_eq_none.2 hc
  have h' : (allWays.find? fun v => !(g.ways.get v).valid) = some w :=
    allWays_find?_eq_some.2 ⟨by simp [hw], fun v hv => by simp [hlow v hv]⟩
  unfold GroupSet.target
  simp only [h, h']

theorem GroupSet.target_of_full (hc : ∀ v, g.conflicts tag sel v = false) (hv : ∀ v, (g.ways.get v).valid = true) :
    g.target tag sel none = g.victim := by
  have h : allWays.find? (g.conflicts tag sel) = none := allWays_find?_eq_none.2 hc
  have h' : (allWays.find? fun v => !(g.ways.get v).valid) = none := allWays_find?_eq_none.2 fun v => by simp [hv v]
  unfold GroupSet.target
  simp only [h, h']

/-- AUTO takes way 0 of a set without valid entries (R75, R81). -/
theorem GroupSet.target_of_empty (h : ∀ v, (g.ways.get v).valid = false) : g.target tag sel none = 0 :=
  GroupSet.target_of_invalid (fun v => by simp [GroupSet.conflicts, h v]) (h 0) fun v hv => absurd hv (Fin.not_lt_zero v)

theorem GroupSet.placed_of_eviction (hv : (g.ways.get w).valid = true) (hc : g.conflicts tag sel w = false) :
    g.placed tag sel w = .evicted (g.ways.get w).tag (g.ways.get w).sel (g.ways.get w).fanout := by
  simp [GroupSet.placed, hv, hc]

theorem GroupSet.placed_of_not_eviction (h : (g.ways.get w).valid = false ∨ g.conflicts tag sel w = true) :
    g.placed tag sel w = if (g.ways.get w).valid then .inPlace else .invalidWay := by
  cases hv : (g.ways.get w).valid with
  | false => simp [GroupSet.placed, hv]
  | true =>
    have hc : g.conflicts tag sel w = true := h.resolve_left (by simp [hv])
    simp [GroupSet.placed, hv, hc]

end

/-! ### The arguments of the group commands (R169, R173) -/

theorem selectorArg_of_mem {b : Byte} {sel : Selector}
    (h : (b, sel) ∈ [(0#8, Selector.neither), (1#8, .bulkOnly), (2#8, .expressOnly), (3#8, .either)]) :
    selectorArg b = some sel := by
  simp only [List.mem_cons, Prod.mk.injEq, List.not_mem_nil, or_false] at h
  rcases h with ⟨rfl, rfl⟩ | ⟨rfl, rfl⟩ | ⟨rfl, rfl⟩ | ⟨rfl, rfl⟩ <;> rfl

theorem placementArg_of_mem {b : Byte} {place : Option (Fin 4)}
    (h : (b, place) ∈ [(0#8, some (0 : Fin 4)), (1#8, some 1), (2#8, some 2), (3#8, some 3), (4#8, none)]) :
    placementArg b = some place := by
  simp only [List.mem_cons, Prod.mk.injEq, List.not_mem_nil, or_false] at h
  rcases h with ⟨rfl, rfl⟩ | ⟨rfl, rfl⟩ | ⟨rfl, rfl⟩ | ⟨rfl, rfl⟩ | ⟨rfl, rfl⟩ <;> rfl

/-- The most significant byte of a fanout argument, of outputs 24 to 31, is dropped (R74). -/
theorem fanoutArg_eq (f3 f2 f1 f0 : Byte) : fanoutArg f3 f2 f1 f0 = (f2 ++ f1 ++ f0 : BitVec 24) := by
  refine BitVec.eq_of_getLsbD_eq fun i hi => ?_
  simp only [fanoutArg, BitVec.getLsbD_extractLsb', BitVec.getLsbD_append]
  grind

/-- A set number in two bytes (R169). -/
theorem arg16_set (set : Fin 256) : arg16 0#8 (BitVec.ofNat 8 set.val) = set.val := by
  rw [arg16, fin_toNat (le_refl 256) set]
  exact (Nat.zero_add _)

/-! ### GROUP_INSTALL (R74 to R78) -/

section

variable {s : State} {sp : SupPort} {gHi gLo f3 f2 f1 f0 selByte placeByte : Byte} {id : Fin 4096} {sel : Selector}
  {place : Option (Fin 4)} {w : Fin 4}

/-- GROUP_INSTALL from the holder with good arguments, a duplicate standing in way `v` (R76). -/
theorem execGroupInstall_duplicate (hs : s.master.holder = some sp) (hid : arg16 gHi gLo = id.val)
    (hsel : selectorArg selByte = some sel) (hplace : placementArg placeByte = some place)
    (hw : (s.groups.get (groupSet id.val)).target (groupTag id.val) sel place = w) {v : Fin 4}
    (hd : (s.groups.get (groupSet id.val)).duplicate (groupTag id.val) sel w = some v) :
    exec (.groupInstall sp [gHi, gLo, selByte, f3, f2, f1, f0, placeByte]) s =
      .next (s.respond sp 0x30#8 .duplicate (.duplicate v)) := by
  show Host.Outcome.next (s.answered sp 0x30#8 (s.holderOnly sp (below 4096 1 (arg16 gHi gLo) _))) = _
  rw [State.holderOnly_holder s sp _ hs, below_of_val id hid, hsel, hplace, named_some, named_some]
  dsimp only
  rw [hw, hd]
  rfl

/-- GROUP_INSTALL from the holder with good arguments and no duplicate: the target, taken as `how` says, is written and
touched, and an eviction raises EVICT (R77, R78). -/
theorem execGroupInstall_written (hs : s.master.holder = some sp) (hid : arg16 gHi gLo = id.val)
    (hsel : selectorArg selByte = some sel) (hplace : placementArg placeByte = some place)
    (hw : (s.groups.get (groupSet id.val)).target (groupTag id.val) sel place = w)
    (hd : (s.groups.get (groupSet id.val)).duplicate (groupTag id.val) sel w = none) {how : Placed}
    (hhow : (s.groups.get (groupSet id.val)).placed (groupTag id.val) sel w = how) :
    let set := groupSet id.val
    let fanout : OutSet := (f2 ++ f1 ++ f0 : BitVec 24)
    let written := (s.groups.get set).install (groupTag id.val) sel fanout w
    exec (.groupInstall sp [gHi, gLo, selByte, f3, f2, f1, f0, placeByte]) s =
      .next ((notify { s with groups := s.groups.put set written } (if how.isEviction then [.evict set] else [])).respond
        sp 0x30#8 .ok (.install set w sel fanout how written.root written.l written.r)) := by
  intro set fanout written
  show Host.Outcome.next (s.answered sp 0x30#8 (s.holderOnly sp (below 4096 1 (arg16 gHi gLo) _))) = _
  rw [State.holderOnly_holder s sp _ hs, below_of_val id hid, hsel, hplace, named_some, named_some]
  dsimp only
  rw [hw, hd, fanoutArg_eq]
  dsimp only
  rw [hhow, State.answered_done, Event.finish_of_freed_nil _ (Event.raiseIf_freed _ _ _), Event.raiseIf_toState,
    Event.raiseIf_raised]
  cases how.isEviction <;> rfl

end

end Sys2Proof.Machine

namespace Sys2Proof.Proofs

open Sys2Proof Sys2Proof.Machine Sys2Proof.Safety

/-- Settles O20: a hit and a conflict both ask the selector of the entry, and NEITHER answers no. -/
theorem classSelectorsMatchAndOverlap : Obligations.ClassSelectorsMatchAndOverlap := by
  refine ⟨fun c => ⟨rfl, rfl⟩, rfl, rfl, rfl, rfl, Selector.overlaps_iff,
    fun b => ⟨b.neither_overlaps, b.overlaps_neither⟩,
    fun g tag c w h => have ⟨_, _, hcovers⟩ := GroupSet.hit_matches h; hcovers, fun g tag w hsel => ?_⟩
  have hconflicts (sel : Selector) : g.conflicts tag sel w = false := by simp [GroupSet.conflicts, hsel]
  refine ⟨fun c hhit => ?_, fun sel => ⟨fun target hdup => ?_, hconflicts sel⟩⟩
  · obtain ⟨-, -, hcovers⟩ := GroupSet.hit_matches hhit
    rw [hsel] at hcovers
    cases hcovers
  · obtain ⟨⟨-, hc⟩, -⟩ := GroupSet.duplicate_eq_some.1 hdup
    rw [hconflicts sel] at hc
    cases hc

/-- Settles O21: the tree by its bits and ways, the lookup by the law of its set. -/
theorem pseudoLruTreeAndLookup : Obligations.PseudoLruTreeAndLookup := by
  refine ⟨fun g => ?_, fun g w => ?_, fun g tag c w hg => GroupSet.hit_iff hg tag c w, fun g w => rfl,
    fun n _ => ⟨rfl, rfl, ?_⟩⟩
  · unfold GroupSet.victim
    cases g.root <;> cases g.l <;> cases g.r <;> rfl
  · fin_cases w <;> rfl
  · exact Nat.div_add_mod' n 256

/-- Settles O22: the placement names the target, and the search for a duplicate beside it decides. -/
theorem groupInstallWritesOrRefuses : Obligations.GroupInstallWritesOrRefuses := by
  intro s sp gHi gLo f3 f2 f1 f0 selByte placeByte sel place w id set tag g conflicts fanout command entry written hs hid
    hselByte hplaceByte hplace
  have hsel := selectorArg_of_mem hselByte
  have hpl := placementArg_of_mem hplaceByte
  have hyes {v : Fin 4} : conflicts v → g.conflicts tag sel v = true := (g.conflicts_iff tag sel v).2
  have hno {v : Fin 4} (h : ¬ conflicts v) : g.conflicts tag sel v = false := by
    rw [← Bool.not_eq_true, GroupSet.conflicts_iff]
    exact h
  have htarget : g.target tag sel place = w := by
    rcases hplace with rfl | ⟨rfl, ⟨hc, hlow⟩ | ⟨hc, ⟨hv, hlow⟩ | ⟨hv, rfl⟩⟩⟩
    · rfl
    · exact GroupSet.target_of_conflict (hyes hc) fun v hlt => hno (hlow v hlt)
    · exact GroupSet.target_of_invalid (fun v => hno (hc v)) hv hlow
    · exact GroupSet.target_of_full (fun v => hno (hc v)) hv
  have hval : arg16 gHi gLo = (⟨id, hid⟩ : Fin 4096).val := rfl
  refine ⟨fun v hne hc hlow => ?_, fun hnone => ⟨fun hv hc => ?_, fun hkept => ?_⟩⟩
  · exact execGroupInstall_duplicate hs hval hsel hpl htarget
      (GroupSet.duplicate_eq_some.2 ⟨⟨hne, hyes hc⟩, fun u hlt hu => hno (hlow u hlt hu)⟩)
  all_goals have hd : g.duplicate tag sel w = none := GroupSet.duplicate_eq_none.2 fun v hv => hno (hnone v hv)
  · exact execGroupInstall_written hs hval hsel hpl htarget hd (GroupSet.placed_of_eviction hv (hno hc))
  · have hquiet : Placed.isEviction (if (g.ways.get w).valid then .inPlace else .invalidWay) = false := by split <;> rfl
    refine (execGroupInstall_written hs hval hsel hpl htarget hd
      (GroupSet.placed_of_not_eviction (hkept.imp_right hyes))).trans ?_
    rw [hquiet]
    rfl

/-- Settles O23: the table each command leaves, and what lookups and placements make of it. -/
theorem groupRemovalsClearValidFlags : Obligations.GroupRemovalsClearValidFlags := by
  refine ⟨fun s sp args hs => ⟨?_, ?_, ?_⟩,
    fun s sp hi lo way hs => ⟨fun hset => ?_, fun hset hway => ?_, fun hid => ?_⟩, fun s sp hs => ⟨fun set w => ?_, fun hi lo hid => ?_, ?_⟩⟩
  · exact congrArg (fun a => Host.Outcome.next (s.answered sp 0x31#8 a)) (State.holderOnly_other s sp _ hs)
  · exact congrArg (fun a => Host.Outcome.next (s.answered sp 0x32#8 a)) (State.holderOnly_other s sp _ hs)
  · exact congrArg (fun a => Host.Outcome.next (s.answered sp 0x33#8 a)) (State.holderOnly_other s sp _ hs)
  · show Host.Outcome.next (s.answered sp 0x31#8 (s.holderOnly sp (below 256 1 (arg16 hi lo) _))) = _
    rw [State.holderOnly_holder s sp _ hs, below_of_ge (show 256 ≤ arg16 hi lo from hset)]
    rfl
  · show Host.Outcome.next (s.answered sp 0x31#8 (s.holderOnly sp (below 256 1 (arg16 hi lo) _))) = _
    rw [State.holderOnly_holder s sp _ hs, below_of_lt (show arg16 hi lo < 256 from hset), below_of_ge hway]
    rfl
  · show Host.Outcome.next (s.answered sp 0x32#8 (s.holderOnly sp (below 4096 1 (arg16 hi lo) _))) = _
    rw [State.holderOnly_holder s sp _ hs, below_of_ge (show 4096 ≤ arg16 hi lo from hid)]
    rfl
  · intro g cleared
    refine ⟨fun tag c hhit => ?_, fun tag sel v => GroupSet.target_of_invalid, ?_⟩
    · have hvalid := (GroupSet.hit_matches hhit).1
      simp [cleared] at hvalid
    · show Host.Outcome.next (s.answered sp 0x31#8
        (s.holderOnly sp (below 256 1 (arg16 0#8 (BitVec.ofNat 8 set.val)) _))) = _
      rw [State.holderOnly_holder s sp _ hs, below_of_val set (arg16_set set), below_of_val w (fin_toNat (by decide) w)]
      rfl
  · intro set g ofTag cleared
    show Host.Outcome.next (s.answered sp 0x32#8 (s.holderOnly sp (below 4096 1 (arg16 hi lo) _))) = _
    rw [State.holderOnly_holder s sp _ hs, below_of_lt (show arg16 hi lo < 4096 from hid)]
    rfl
  · intro cleared
    have hinvalid (k : Fin 256) (w : Fin 4) : ((cleared k).ways.get w).valid = false := by simp [cleared]
    refine ⟨fun k => GroupSet.hit_eq_none (hinvalid k), fun k tag sel => GroupSet.target_of_empty (hinvalid k), ?_⟩
    show Host.Outcome.next (s.answered sp 0x33#8 (s.holderOnly sp _)) = _
    rw [State.holderOnly_holder s sp _ hs]
    rfl

end Sys2Proof.Proofs

/-! # The group table and the meters, whatever command is taken (O54) -/

namespace Sys2Proof.Safety

open Sys2Proof Sys2Proof.Machine

/-! ### The law of a group set (R73) -/

/-- A set each of whose valid entries is a valid entry of a lawful set, by tag and selector, is lawful. -/
theorem GroupLaw.of_entries {g h : GroupSet} (hg : GroupLaw g)
    (hsub : ∀ w, (h.ways.get w).valid = true → (g.ways.get w).valid = true ∧
      (h.ways.get w).tag = (g.ways.get w).tag ∧ (h.ways.get w).sel = (g.ways.get w).sel) : GroupLaw h := by
  intro v w hne hv hw ht
  obtain ⟨hv', htv, hsv⟩ := hsub v hv
  obtain ⟨hw', htw, hsw⟩ := hsub w hw
  rw [hsv, hsw]
  exact hg v w hne hv' hw' (htv.symm.trans (ht.trans htw))

theorem GroupLaw.of_invalid {g : GroupSet} (h : ∀ w, (g.ways.get w).valid = false) : GroupLaw g := by
  intro v w _ hv
  rw [h v] at hv
  cases hv

/-- A hit moves the hit count and the tree alone (R71). -/
theorem GroupLaw.hitWay {g : GroupSet} (hg : GroupLaw g) (w : Fin 4) : GroupLaw (g.hitWay w) := by
  refine hg.of_entries fun v hv => ?_
  simp only [GroupSet.hitWay, GroupSet.touch_ways, Table.get_put] at hv ⊢
  split at hv
  · next e => subst e; simpa using hv
  · next e => simpa [e] using hv

/-- An install that finds no duplicate beside its target keeps the law (R76, R77). -/
theorem GroupLaw.install {g : GroupSet} (hg : GroupLaw g) {tag : Nat} {sel : Selector} {w : Fin 4}
    (hd : g.duplicate tag sel w = none) (fanout : OutSet) : GroupLaw (g.install tag sel fanout w) := by
  have clear {v : Fin 4} (hne : v ≠ w) (hv : (g.ways.get v).valid = true) (ht : (g.ways.get v).tag = tag) :
      (g.ways.get v).sel.overlaps sel = false := by
    have h := GroupSet.duplicate_eq_none.1 hd v hne
    simpa [GroupSet.conflicts, hv, ht] using h
  intro v u hne hv hu ht
  simp only [GroupSet.install, GroupSet.touch_ways] at hv hu ht ⊢
  by_cases hvw : v = w
  · subst hvw
    have huv : u ≠ v := hne.symm
    simp only [Table.get_put_self, Table.get_put_ne _ _ huv] at hu ht ⊢
    rw [Selector.overlaps_comm]
    exact clear huv hu ht.symm
  · by_cases huw : u = w
    · subst huw
      simp only [Table.get_put_self, Table.get_put_ne _ _ hvw] at hv ht ⊢
      exact clear hvw hv ht
    · simp only [Table.get_put_ne _ _ hvw, Table.get_put_ne _ _ huw] at hv hu ht ⊢
      exact hg v u hne hv hu ht

/-- A removal makes entries invalid and changes no other (R79, R80). -/
theorem GroupLaw.removed {g h : GroupSet} (hg : GroupLaw g)
    (hrem : ∀ w, h.ways.get w = g.ways.get w ∨ h.ways.get w = (g.ways.get w).remove) : GroupLaw h := by
  refine hg.of_entries fun w hv => ?_
  rcases hrem w with e | e
  · rw [e] at hv ⊢
    exact ⟨hv, rfl, rfl⟩
  · rw [e] at hv
    cases hv

/-! ### The law of a meter (R147) -/

theorem MeterLaw.powerUp : MeterLaw Meter.powerUp := by
  unfold MeterLaw
  decide

theorem MeterLaw.count_lt {m : Meter} (hm : MeterLaw m) : m.count < 4294967296 := by
  obtain ⟨-, hcount, -⟩ := hm
  exact hcount

theorem MeterLaw.snapshot_lt {m : Meter} (hm : MeterLaw m) : m.snapshot < 4294967296 := by
  obtain ⟨-, -, hsnap, -⟩ := hm
  exact hsnap

/-- A meter whose count and interval counter are set to 0 keeps the law, RUNNING or STOPPED (R151, R152, R155). -/
theorem MeterLaw.cleared {m : Meter} (hm : MeterLaw m) (running : Bool) {snapshot : Nat} (hs : snapshot < 4294967296) :
    MeterLaw { m with running := running, count := 0, snapshot := snapshot, seen := 0 } := by
  obtain ⟨-, -, -, hint, -, -⟩ := hm
  exact ⟨fun _ => ⟨rfl, rfl⟩, Nat.zero_lt_succ _, hs, hint, fun _ => rfl, fun h => Nat.pos_of_ne_zero h⟩

/-- A STOPPED meter keeps the law under METER_SET (R150). -/
theorem MeterLaw.configured {m : Meter} (hm : MeterLaw m) (hr : m.running = false) (target : PortId) (sel : MeterSel)
    (mode : MeterMode) {n : Nat} (hn : n < 65536) :
    MeterLaw { m with target := target, sel := sel, mode := mode, interval := n } := by
  obtain ⟨hstopped, hcount, hsnap, -, -, -⟩ := hm
  have hseen : m.seen = 0 := (hstopped hr).2
  exact ⟨hstopped, hcount, hsnap, hn, fun _ => hseen, fun h => hseen ▸ Nat.pos_of_ne_zero h⟩

theorem meterCount_lt {m : Meter} (hm : m.count < 4294967296) (d : Departed) : meterCount m d < 4294967296 := by
  unfold meterCount
  split
  · split <;> split <;> omega
  · exact hm

/-- A departure keeps the law of a meter: one that sees it is RUNNING, and its interval counter is set to 0 as it reaches the
interval (R148, R149). -/
theorem MeterLaw.after {m : Meter} (hm : MeterLaw m) (o : PortId) (d : Departed) : MeterLaw (meterAfter m o d) := by
  unfold meterAfter
  split
  · next hsees =>
    obtain ⟨hstopped, hcount, hsnap, hint, hoff, hon⟩ := hm
    have notStopped {p : Prop} (h : m.running = false) : p := by simp [hsees.1] at h
    have hcount' := meterCount_lt hcount d
    split
    · next hi => exact ⟨notStopped, hcount', hsnap, hint, hoff, hon⟩
    · next hi =>
      have hseen := hon hi
      split
      · exact ⟨notStopped, Nat.zero_lt_succ _, hcount', hint, fun _ => rfl, fun _ => Nat.pos_of_ne_zero hi⟩
      · exact ⟨notStopped, hcount', hsnap, hint, fun h => absurd h hi, fun _ => show m.seen + 1 < m.interval by omega⟩
  · exact hm

end Sys2Proof.Safety

namespace Sys2Proof.Machine

open Sys2Proof Sys2Proof.Safety

/-! ### Events that leave the shared blocks alone -/

theorem Event.markHead_shared (c : Event) (o : PortId) : c.SharedSame (c.markHead o) := by
  unfold Event.markHead
  split
  · exact c.modPort_shared _ _
  · exact .refl c

theorem Event.enable_shared (c : Event) (p : PortId) : c.SharedSame (c.enable p).1 := by
  have enabled := c.modPort_shared p fun x => { x with admin := .enabled }
  unfold Event.enable
  dsimp only
  split
  · exact .refl c
  · dsimp only
    split
    · exact enabled.trans (Event.modPort_shared _ _ _)
    · exact enabled
  · dsimp only
    split
    · exact (enabled.trans (Event.modPort_shared _ _ _)).trans (Event.pickCheck_shared _ _)
    · exact enabled.trans (Event.pickCheck_shared _ _)

theorem Event.drain_shared (c : Event) (p : PortId) : c.SharedSame (c.drain p) := by
  unfold Event.drain
  split
  · exact (c.modPort_shared _ _).trans (Event.drainChecks_shared _ _ _)
  all_goals exact .refl c

theorem Event.disable_shared (c : Event) (p : PortId) : c.SharedSame (c.disable p) := by
  unfold Event.disable
  split
  · exact (c.modPort_shared _ _).trans (Event.outputUnavailable_shared _ _)
  · exact (c.modPort_shared _ _).trans (Event.outputUnavailable_shared _ _)
  · exact .refl c

theorem Event.resetPort_leavesShared (c : Event) (p : PortId) : c.SharedSame (c.resetPort p) :=
  ((c.enterDown_shared p).trans (Event.clearGuard_shared _ p)).trans (Event.modPort_shared _ _ _)

theorem Event.charge_shared (c : Event) (p : PortId) (k : Key) : c.SharedSame (c.charge p k) := c.modPort_shared _ _

theorem Event.discardCharged_shared (c : Event) (p : PortId) (key : Key) (k : Counter) :
    c.SharedSame (c.discardCharged p key k) := (c.count_shared p k).trans (Event.free_shared _ _ _ _)

theorem Event.acceptCell_shared (c : Event) (p d : PortId) (h : Header) (payload : List Byte) :
    c.SharedSame (c.acceptCell p d h payload) :=
  (((c.modPort_shared _ _).trans (Event.count_shared _ _ _)).trans (Event.setWaiting_shared _ _ _)).trans
    (Event.pickCheck_shared _ _)

theorem Event.acceptCopies_shared (c : Event) (p : PortId) (h : Header) (payload : List Byte) (r : OutSet) :
    c.SharedSame (c.acceptCopies p h payload r) :=
  (((c.modPort_shared _ _).trans (Event.count_shared _ _ _)).trans
    (Event.foldl_shared _ (fun e o => e.setWaiting_shared o _) _ _)).trans
    (Event.foldl_shared _ (fun e o => e.pickCheck_shared o) _ _)

theorem Event.fabricNotices_shared (c : Event) (p : PortId) (x : Port) : c.SharedSame (c.fabricNotices p x) :=
  ((c.raiseIf_shared _ _).trans (Event.raiseIf_shared _ _ _)).trans (Event.raiseIf_shared _ _ _)

/-- The ports of an event are no shared block. -/
theorem Event.SharedSame.withPorts {c d : Event} (h : c.SharedSame d) (x : Table Port 24) :
    c.SharedSame { d with ports := x } := h

/-- Beside the ports fabric reset changes the meters alone (R183). -/
theorem Event.fabricReset_shared (c : Event) :
    Event.SharedSame { c with meters := c.meters.map Meter.fabricReset } c.fabricReset := by
  have cleared := (Event.SharedSame.refl { c with meters := c.meters.map Meter.fabricReset }).withPorts
    (c.ports.map Port.fabricReset)
  refine Event.SharedSame.withPorts ?_ _
  exact (cleared.trans (Event.foldl_shared _ (fun e p => e.fabricNotices_shared p (c.port p)) allPorts _)).trans
    (Event.foldl_shared _ (fun e o => e.evaluate_shared o) allPorts _)

/-! ### Commands that leave the group table and the meters alone -/

/-- The group table and the meters of `t` are those of `s`. -/
def State.SameTables (s t : State) : Prop := t.groups = s.groups ∧ t.meters = s.meters

theorem State.SameTables.refl (s : State) : s.SameTables s := ⟨rfl, rfl⟩

theorem Event.SharedSame.sameTables {c d : Event} (h : c.SharedSame d) : c.SameTables d.toState := by
  obtain ⟨hg, hm, -⟩ := h
  exact ⟨hg, hm⟩

theorem State.SameTables.finish {s : State} {c : Event} (h : s.SameTables c.toState) : s.SameTables c.finish :=
  ⟨c.finish_groups.trans h.1, c.finish_meters.trans h.2⟩

theorem Event.SharedSame.finish {s : State} {c : Event} (h : (Event.start s).SharedSame c) : s.SameTables c.finish :=
  State.SameTables.finish h.sameTables

@[simp] theorem State.sameTables_start (s : State) : s.SameTables (Event.start s).finish :=
  State.SameTables.finish (.refl s)

theorem Ends.shared {s : State} {c : Event} (h : (Event.start s).SharedSame c) :
    Ends s.SameTables (.next c.finish) := .next h.finish

theorem Ends.answered_sameTables {s : State} {a : Answer} {sp : SupPort} {code : Byte}
    (ha : a.Leads fun c => s.SameTables c.finish) : Ends s.SameTables (.next (s.answered sp code a)) :=
  .next (State.answered_induct s.SameTables (fun _ _ _ _ _ h => h) (.refl s) ha sp code)

theorem Ends.held_sameTables {s : State} {a : Answer} {sp : SupPort} {code : Byte}
    (ha : a.Leads fun c => s.SameTables c.finish) :
    Ends s.SameTables (.next (s.answered sp code (s.holderOnly sp a))) :=
  .held (fun _ _ _ _ _ h => h) (.refl s) ha

theorem execMarkerReceived_sameTables (p : PortId) (word : ControlWord) (s : State) :
    Ends s.SameTables (execMarkerReceived p word s) := by
  unfold execMarkerReceived
  dsimp only
  split
  · split
    · exact .next (.refl s)
    · exact .shared (Event.modPort_shared _ _ _)
    · split
      · split
        · exact .shared (Event.enterUp_shared _ _ _)
        · exact .shared (Event.modPort_shared _ _ _)
      · exact .shared (Event.modPort_shared _ _ _)
    · split
      · exact .shared (Event.modPort_shared _ _ _)
      · split
        · exact .shared (Event.enterDown_shared _ _)
        · exact .shared (Event.modPort_shared _ _ _)
  · exact .next (.refl s)

theorem execHold_sameTables (p : PortId) (s : State) : Ends s.SameTables (execHold p s) := by
  unfold execHold
  split
  · split
    · exact .shared (((Event.start s).markHead_shared p).trans (Event.modPort_shared _ _ _))
    · exact .shared (Event.modPort_shared _ _ _)
    all_goals exact .next (.refl s)
  · exact .next (.refl s)

theorem execRelease_sameTables (p : PortId) (s : State) : Ends s.SameTables (execRelease p s) := by
  unfold execRelease
  split
  · split
    · split
      · exact .shared (Event.modPort_shared _ _ _)
      · exact .shared ((Event.modPort_shared _ _ _).trans (Event.pickCheck_shared _ _))
    · exact .shared (((Event.modPort_shared _ _ _).trans (Event.raise_shared _ _)).trans (Event.pickCheck_shared _ _))
    all_goals exact .next (.refl s)
  · exact .next (.refl s)

/-- The commands that write the group table or the meters. -/
def writesTables : Instr → Bool
  | .powerUpReset | .cellReceptionComplete _ _ _ | .departure _ | .groupInstall _ _ | .groupRemove _ _
  | .groupRemoveId _ _ | .groupFlush _ _ | .meterSet _ _ | .meterStart _ _ | .meterStop _ _ | .meterCapture _ _
  | .fabricReset _ _ => true
  | _ => false

/-- Every other command leaves the group table and the meters as they are. -/
theorem exec_sameTables (i : Instr) (s : State) (hi : writesTables i = false) : Ends s.SameTables (exec i s) := by
  cases i
  case idleReceived | wordDropped | abortedCell | transactionAbandoned => exact .next (.refl s)
  case lockAcquired p =>
    show Ends _ (execLockAcquired p s)
    unfold execLockAcquired
    split
    · exact .shared (Event.modPort_shared _ _ _)
    · exact .next (.refl s)
  case lockLost p cut =>
    show Ends _ (execLockLost p cut s)
    unfold execLockLost
    split
    · dsimp only
      split
      · exact .shared ((Event.count_shared _ _ _).trans (Event.enterDown_shared _ _))
      · exact .shared (Event.enterDown_shared _ _)
    · exact .next (.refl s)
  case markerReceived p word => exact execMarkerReceived_sameTables p word s
  case hold p => exact execHold_sameTables p s
  case release p => exact execRelease_sameTables p s
  case controlErrorWord p =>
    show Ends _ (execControlErrorWord p s)
    unfold execControlErrorWord
    split
    · exact .shared ((Event.count_shared _ _ _).trans (Event.guardFault_shared _ _ _))
    · exact .next (.refl s)
  case unitBoundary o =>
    show Ends _ (execUnitBoundary o s)
    unfold execUnitBoundary
    split
    · exact .shared (Event.modPort_shared _ _ _)
    · exact .next (.refl s)
  case creditWordCompletion o =>
    show Ends _ (execCreditWordCompletion o s)
    unfold execCreditWordCompletion
    split
    · exact .shared (Event.modPort_shared _ _ _)
    · exact .next (.refl s)
  case resyncCompletion o =>
    show Ends _ (execResyncCompletion o s)
    unfold execResyncCompletion
    split
    · exact .shared (Event.modPort_shared _ _ _)
    · exact .next (.refl s)
  case congestionWordCompletion o =>
    show Ends _ (execCongestionWordCompletion o s)
    unfold execCongestionWordCompletion
    split
    · exact .shared (Event.modPort_shared _ _ _)
    · exact .next (.refl s)
  case holdTimerExpiry o =>
    show Ends _ (execHoldTimerExpiry o s)
    unfold execHoldTimerExpiry
    split
    · exact .shared (((Event.modPort_shared _ _ _).trans (Event.raise_shared _ _)).trans
        (Event.outputUnavailable_shared _ _))
    · exact .next (.refl s)
  case mastershipTimerExpiry =>
    show Ends _ (execMastershipTimerExpiry s)
    unfold execMastershipTimerExpiry
    split
    · split <;> exact .next (State.SameTables.finish ⟨rfl, rfl⟩)
    · exact .next (.refl s)
  case unknownCommand sp record =>
    show Ends _ (execUnknownCommand sp record s)
    unfold execUnknownCommand
    split
    · split
      · exact .answered_sameTables trivial
      · split
        · exact .next (.refl s)
        · exact .answered_sameTables trivial
    · exact .next (.refl s)
  case status | portRead | queueRead | replicationRead | creditRead | groupRead | groupProbe | arbiterRead |
      monitorRead | meterRead | countersRead | noticesRead =>
    refine .answered_sameTables ?_
    split <;> simp
  case noticesClear =>
    refine .answered_sameTables ?_
    split
    · trivial
    · split
      · trivial
      · split
        · trivial
        · split
          · trivial
          · exact State.SameTables.finish ⟨rfl, rfl⟩
  case noticeConfig =>
    refine .answered_sameTables ?_
    split
    · simp only [Answer.leads_named, Answer.leads_done]
      exact fun _ _ _ _ => State.SameTables.finish ⟨rfl, rfl⟩
    · trivial
  case claim =>
    refine .answered_sameTables ?_
    split
    · split
      · exact State.SameTables.finish ⟨rfl, rfl⟩
      · split <;> simp
    · trivial
  case relinquish | keepalive | timerPeriod =>
    refine .held_sameTables ?_
    split
    · simp only [Answer.leads_named, Answer.leads_done]
      intros
      exact State.SameTables.finish ⟨rfl, rfl⟩
    · trivial
  case linkParams | weightStage | expressSet | holdLimit | countersClear =>
    refine .held_sameTables ?_
    split
    · simp only [Answer.leads_below, Answer.leads_named, Answer.leads_done]
      intros
      exact (Event.modPort_shared _ _ _).finish
    · trivial
  case weightStageRow =>
    refine .held_sameTables ?_
    split
    · split
      · simp only [Answer.leads_below, Answer.leads_done]
        exact fun _ => (Event.modPort_shared _ _ _).finish
      · trivial
    · trivial
  case thresholds =>
    refine .held_sameTables ?_
    split
    · simp only [Answer.leads_below, Answer.leads_done]
      exact fun _ => ((Event.modPort_shared _ _ _).trans (Event.evaluate_shared _ _)).finish
    · trivial
  case portAdminEnable =>
    refine .held_sameTables ?_
    split
    · simp only [Answer.leads_below, Answer.leads_named, Answer.leads_done]
      exact fun _ _ _ => (Event.enable_shared _ _).finish
    · trivial
  case portAdminDrain =>
    refine .held_sameTables ?_
    split
    · simp only [Answer.leads_below, Answer.leads_named, Answer.leads_done]
      exact fun _ _ _ => (Event.drain_shared _ _).finish
    · trivial
  case portAdminDisable =>
    refine .held_sameTables ?_
    split
    · simp only [Answer.leads_below, Answer.leads_named, Answer.leads_done]
      exact fun _ _ _ => (Event.disable_shared _ _).finish
    · trivial
  case portReset =>
    refine .held_sameTables ?_
    split
    · simp only [Answer.leads_below, Answer.leads_done]
      exact fun _ => (Event.resetPort_leavesShared _ _).finish
    · trivial
  case portResync =>
    refine .held_sameTables ?_
    split
    · rw [Answer.leads_below]
      intro h
      split
      · exact (Event.modPort_shared _ _ _).finish
      · exact s.sameTables_start
    · trivial
  case guardSet =>
    refine .held_sameTables ?_
    split
    · simp only [Answer.leads_below, Answer.leads_named, Answer.leads_done]
      exact fun _ _ _ _ _ => ((Event.modPort_shared _ _ _).trans (Event.raiseIf_shared _ _ _)).finish
    · trivial
  case guardResume =>
    refine .held_sameTables ?_
    split
    · simp only [Answer.leads_below, Answer.leads_done]
      exact fun _ => (Event.clearGuard_shared _ _).finish
    · trivial
  all_goals cases hi

/-! ### Commands that write them -/

/-- Each set of the group table and each meter that is lawful in `s` is lawful in `t`. -/
structure State.KeepsTables (s t : State) : Prop where
  groups : ∀ k, GroupLaw (s.groups.get k) → GroupLaw (t.groups.get k)
  meters : ∀ m, MeterLaw (s.meters.get m) → MeterLaw (t.meters.get m)

theorem State.SameTables.keeps {s t : State} (h : s.SameTables t) : s.KeepsTables t := by
  obtain ⟨hg, hm⟩ := h
  exact ⟨fun k hk => hg ▸ hk, fun m hk => hm ▸ hk⟩

theorem Event.SharedSame.keeps {c d : Event} (h : c.SharedSame d) : c.KeepsTables d.toState := h.sameTables.keeps

theorem State.KeepsTables.refl (s : State) : s.KeepsTables s := (State.SameTables.refl s).keeps

theorem State.KeepsTables.trans {s t u : State} (h : s.KeepsTables t) (h' : t.KeepsTables u) : s.KeepsTables u :=
  ⟨fun k hk => h'.groups k (h.groups k hk), fun m hm => h'.meters m (h.meters m hm)⟩

theorem State.KeepsTables.finish {s : State} {c : Event} (h : s.KeepsTables c.toState) : s.KeepsTables c.finish :=
  h.trans (State.SameTables.finish (.refl c.toState)).keeps

/-- One set of the group table replaced. -/
theorem State.keepsTables_putGroup (s : State) {k : Fin 256} {g : GroupSet}
    (h : GroupLaw (s.groups.get k) → GroupLaw g) : s.KeepsTables { s with groups := s.groups.put k g } where
  groups j hj := by
    show GroupLaw ((s.groups.put k g).get j)
    rw [Table.get_put]
    split
    · next e => subst e; exact h hj
    · exact hj
  meters _ hm := hm

/-- One meter replaced. -/
theorem State.keepsTables_putMeter (s : State) {k : Fin 8} {y : Meter}
    (h : MeterLaw (s.meters.get k) → MeterLaw y) : s.KeepsTables { s with meters := s.meters.put k y } where
  groups _ hg := hg
  meters j hj := by
    show MeterLaw ((s.meters.put k y).get j)
    rw [Table.get_put]
    split
    · next e => subst e; exact h hj
    · exact hj

/-- The placement of a multicast cell that hits moves the set of its group, and nothing else of the two tables moves
(R26, R71). -/
theorem Event.place_keeps (c : Event) (p : PortId) (h : Header) (payload : List Byte) :
    c.KeepsTables (c.place p h payload).toState := by
  unfold Event.place
  split
  · dsimp only
    split
    · exact (c.discardCharged_shared _ _ _).keeps
    · next w _ =>
      have looked : c.KeepsTables (c.setGroup (groupSet h.group.toNat)
          ((c.groups.get (groupSet h.group.toNat)).hitWay w)).toState :=
        State.keepsTables_putGroup _ fun hg => hg.hitWay w
      split
      · exact looked.trans (Event.discardCharged_shared _ _ _ _).keeps
      · exact looked.trans (Event.acceptCopies_shared _ _ _ _ _).keeps
  · split
    · dsimp only
      split
      · exact (c.acceptCell_shared _ _ _ _).keeps
      · exact (c.discardCharged_shared _ _ _).keeps
    · exact .refl _

theorem Event.classify_keeps (c : Event) (p : PortId) (data : List Byte) (closed : CellEnd) :
    c.KeepsTables (c.classify p data closed).toState := by
  have fault (k : Counter) (f : FaultKind) : c.SharedSame (((c.discard p k).guardFault p f).modPort p Port.issue) :=
    ((c.count_shared p k).trans (Event.guardFault_shared _ _ _)).trans (Event.modPort_shared _ _ _)
  unfold Event.classify
  dsimp only
  split
  · exact (c.count_shared p _).keeps
  split
  · exact (c.count_shared p _).keeps
  split
  · exact (fault _ _).keeps
  split
  · exact (c.count_shared p _).keeps
  split
  · exact (fault _ _).keeps
  split
  · exact ((c.count_shared p _).trans (Event.guardFault_shared _ _ _)).keeps
  split
  · exact ((c.charge_shared p _).trans (Event.discardCharged_shared _ _ _ _)).keeps
  · exact (c.charge_shared p _).keeps.trans (Event.place_keeps _ _ _ _)

theorem Event.meterDeparture_keeps (c : Event) (o : PortId) (d : Departed) :
    c.KeepsTables (c.meterDeparture o d).toState := by
  rw [(c.meterDeparture_raises o d).1]
  refine ⟨fun _ hg => hg, fun m hm => ?_⟩
  show MeterLaw (Table.get (c.meters.map _) m)
  rw [Table.get_map, meterAfter_eq hm.count_lt]
  exact hm.after o d

/-- Of the two tables a departure moves the meters alone (R125, R148). -/
theorem Event.depart_keeps (c : Event) (o : PortId) (src : Source) : c.KeepsTables (c.depart o src).toState := by
  have left := (c.modPort_shared o fun x => { x.count .departed 1 with
    arbiter := x.arbiter.refill
    tx := { x.tx.endUnit .whole with state := .idle, service := none } }).trans
      (Event.modPort_shared _ src.input (Port.depart o src))
  have noted (e : Event) (he : c.SharedSame e) (n : Nat) (d : Departed) (l : List PortId) :
      c.KeepsTables ((((e.setWaiting o n).meterDeparture o d).drainChecks 24 l).pickCheck o).toState :=
    ((he.trans (e.setWaiting_shared o n)).keeps.trans (Event.meterDeparture_keeps _ o d)).trans
      ((Event.drainChecks_shared _ _ _).trans (Event.pickCheck_shared _ _)).keeps
  unfold Event.depart Event.complete
  dsimp only
  split
  · exact noted _ (left.trans (Event.free_shared _ _ _ _)) _ _ _
  · exact noted _ left _ _ _

theorem Event.fabricReset_keeps (c : Event) : c.KeepsTables c.fabricReset.toState := by
  have stopped : c.KeepsTables ({ c with meters := c.meters.map Meter.fabricReset } : Event).toState := by
    refine ⟨fun _ hg => hg, fun m hm => ?_⟩
    show MeterLaw ((c.meters.map Meter.fabricReset).get m)
    rw [Table.get_map]
    exact hm.cleared false (Nat.zero_lt_succ _)
  exact stopped.trans c.fabricReset_shared.keeps

theorem Ends.held_keepsTables {s : State} {a : Answer} {sp : SupPort} {code : Byte}
    (ha : a.Leads fun c => s.KeepsTables c.finish) :
    Ends s.KeepsTables (.next (s.answered sp code (s.holderOnly sp a))) :=
  .held (fun _ _ _ _ _ h => ⟨h.groups, h.meters⟩) (.refl s) ha

theorem arg16_lt (hi lo : Byte) : arg16 hi lo < 65536 := by
  unfold arg16
  have := hi.isLt
  have := lo.isLt
  omega

/-- Every command keeps the law of each set of the group table and of each meter. -/
theorem exec_keepsTables (i : Instr) (s : State) : Ends s.KeepsTables (exec i s) := by
  cases i
  case powerUpReset =>
    refine .next ⟨fun k _ => GroupLaw.of_invalid fun w => ?_, fun m _ => ?_⟩
    · show (((Table.fill GroupSet.powerUp : Table GroupSet 256).get k).ways.get w).valid = false
      simp [GroupSet.powerUp, GroupEntry.powerUp]
    · show MeterLaw ((Table.fill Meter.powerUp : Table Meter 8).get m)
      rw [Table.get_fill]
      exact MeterLaw.powerUp
  case cellReceptionComplete p data closed =>
    show Ends _ (execCellReceptionComplete p data closed s)
    unfold execCellReceptionComplete
    split
    · exact .next ((Event.start s).classify_keeps p data closed).finish
    · exact .next (.refl s)
  case departure o =>
    show Ends _ (execDeparture o s)
    unfold execDeparture
    split
    · exact .next ((Event.start s).depart_keeps o _).finish
    · exact .next (.refl s)
  case groupInstall =>
    refine .held_keepsTables ?_
    split
    · simp only [Answer.leads_below, Answer.leads_named]
      intro _ sel _ place _
      split
      · trivial
      · next hd =>
        refine State.KeepsTables.finish ?_
        rw [Event.raiseIf_toState]
        exact s.keepsTables_putGroup fun hg => hg.install hd _
    · trivial
  case groupRemove =>
    refine .held_keepsTables ?_
    split
    · simp only [Answer.leads_below, Answer.leads_done]
      refine fun _ _ => (s.keepsTables_putGroup fun hg => hg.removed fun v => ?_).finish
      rw [Table.get_put]
      split
      · next e => exact .inr (e ▸ rfl)
      · exact .inl rfl
    · trivial
  case groupRemoveId =>
    refine .held_keepsTables ?_
    split
    · simp only [Answer.leads_below, Answer.leads_done]
      refine fun _ => (s.keepsTables_putGroup fun hg => hg.removed fun v => ?_).finish
      rw [Table.get_map]
      split
      · exact .inr rfl
      · exact .inl rfl
    · trivial
  case groupFlush =>
    refine .held_keepsTables ?_
    split
    · refine State.KeepsTables.finish ⟨fun k hk => GroupLaw.of_invalid fun w => ?_, fun _ hm => hm⟩
      show (((s.groups.map GroupSet.flush).get k).ways.get w).valid = false
      simp [GroupSet.flush, GroupEntry.remove]
    · trivial
  case meterSet =>
    refine .held_keepsTables ?_
    split
    · simp only [Answer.leads_below, Answer.leads_meterSelector, Answer.leads_named]
      intro _ _ sel _ mode _
      split
      · trivial
      · next hr =>
        exact (s.keepsTables_putMeter fun hm => hm.configured (by simpa using hr) _ _ _ (arg16_lt _ _)).finish
    · trivial
  case meterStart =>
    refine .held_keepsTables ?_
    split
    · simp only [Answer.leads_below, Answer.leads_done]
      refine fun _ => (s.keepsTables_putMeter fun hm => ?_).finish
      split
      · exact hm
      · exact hm.cleared true hm.snapshot_lt
    · trivial
  case meterStop =>
    refine .held_keepsTables ?_
    split
    · simp only [Answer.leads_below, Answer.leads_done]
      refine fun _ => (s.keepsTables_putMeter fun hm => ?_).finish
      split
      · exact hm.cleared false hm.snapshot_lt
      · exact hm
    · trivial
  case meterCapture =>
    refine .held_keepsTables ?_
    split
    · simp only [Answer.leads_below, Answer.leads_done]
      refine fun _ => (s.keepsTables_putMeter fun hm => ?_).finish
      split
      · exact hm.cleared _ hm.count_lt
      · exact hm
    · trivial
  case fabricReset =>
    refine .held_keepsTables ?_
    split
    · exact ((Event.start s).fabricReset_keeps).finish
    · trivial
  all_goals exact fun t ht => (exec_sameTables _ s rfl t ht).keeps

end Sys2Proof.Machine

namespace Sys2Proof.Proofs

open Sys2Proof Sys2Proof.Machine Sys2Proof.Safety

/-- Settles O54: each command keeps the law of each set and of each meter, so every step keeps the laws of all. -/
theorem stepKeepsGroupsAndMeters : Obligations.StepKeepsGroupsAndMeters := by
  refine ⟨fun s t hs ht => ?_, fun s t hs ht => ?_⟩
  · exact step_keeps (I := fun s => ∀ k, GroupLaw (s.groups.get k)) (fun _ _ h => h)
      (fun i s h t ht k => (exec_keepsTables i s t ht).groups k (h k)) hs ht
  · exact step_keeps (I := fun s => ∀ m, MeterLaw (s.meters.get m)) (fun _ _ h => h)
      (fun i s h t ht m => (exec_keepsTables i s t ht).meters m (h m)) hs ht

end Sys2Proof.Proofs

/-! # Departures of copies (O29) -/

namespace Sys2Proof.Machine

open Sys2Proof Sys2Proof.Safety

/-! ### The entry whose copy is in service (R87, R93, R94) -/

/-- The copy in service toward `o` is that of the first entry that holds `o` in its in-service set. -/
theorem Port.servedCopy_of_split {x : Port} {o : PortId} {before after : List CopyEntry} {e : CopyEntry}
    (hcopies : x.copies = before ++ e :: after) (he : e.inService.has o = true)
    (hbefore : ∀ a ∈ before, a.inService.has o = false) : x.servedCopy o = some e := by
  unfold Port.servedCopy
  exact List.find?_eq_some_iff_append.2 ⟨he, before, after, hcopies, fun a ha => by rw [hbefore a ha]; rfl⟩

/-- The departure of a copy passes over the entries that do not have it in service (R93). -/
theorem departCopy_append {o : PortId} {before : List CopyEntry} (l : List CopyEntry)
    (hbefore : ∀ a ∈ before, a.inService.has o = false) : departCopy o (before ++ l) = before ++ departCopy o l := by
  induction before with
  | nil => rfl
  | cons a before ih =>
    have ha : ¬ a.inService.has o = true := by simp [hbefore a]
    rw [List.cons_append, departCopy, if_neg ha, ih fun b hb => hbefore b (List.mem_cons_of_mem a hb), List.cons_append]

/-- An entry left with other outputs stays where it stands (R93). -/
theorem departCopy_of_kept {o : PortId} {e : CopyEntry} (after : List CopyEntry) (he : e.inService.has o = true)
    (hkept : e.remaining.drop o ≠ OutSet.empty) : departCopy o (e :: after) = e.lose o :: after := by
  rw [departCopy, if_pos he, if_neg (show ¬ (e.lose o).remaining = OutSet.empty from hkept)]

/-- An entry left with no output leaves its list (R94). -/
theorem departCopy_of_last {o : PortId} {e : CopyEntry} (after : List CopyEntry) (he : e.inService.has o = true)
    (hlast : e.remaining.drop o = OutSet.empty) : departCopy o (e :: after) = after := by
  rw [departCopy, if_pos he, if_pos (show (e.lose o).remaining = OutSet.empty from hlast)]

/-- What a departing copy is to the meters, and that it frees a place exactly where it was its entry's last (R94, R148). -/
theorem State.departing_copy {s : State} {o i : PortId} {e : CopyEntry} (h : (s.port i).servedCopy o = some e) :
    s.departing o (.copy i) = ({ input := i, cls := e.cls, copy := true }, e.remaining.drop o == OutSet.empty) := by
  simp [State.departing, h, CopyEntry.lose]

/-- The drain of an input is not over where it is not DRAINING or still holds a cell or an entry (R162). -/
theorem State.drained_eq_false_iff (s : State) (i : PortId) :
    s.drained i = false ↔ (s.port i).admin ≠ .draining ∨ ¬ (s.port i).Empty := by
  unfold State.drained
  rw [Bool.and_eq_false_iff, beq_eq_false_iff_ne, ← Bool.not_eq_true (Port.holdsNothing _), Port.holdsNothing_iff]

/-! ### The output of a departure (R112, R125) -/

/-- What an output does to itself as the cell on its link departs, in the statements' words. -/
theorem Port.sent_of_cell {x : Port} {header payload : List Byte} (h : x.tx.onLink = some (.cell header payload)) :
    x.sent = { x with
      counters := countedUp x .departed
      arbiter := { x.arbiter with level := min (x.arbiter.level + x.arbiter.rate) (256 * x.arbiter.burst) }
      tx := { x.tx with
        state := .idle, service := none, onLink := none, closed := some .whole, spacing := x.tx.spacing + 1
        wordOwed := true } } := by
  unfold Port.sent
  rw [Transmitter.endUnit_eq, h]
  simp [isCell, Port.count, Arbiter.refill, countedUp]

/-- The departure of a cell whose transmitter is SENDING it (R125). -/
theorem execDeparture_of_sending {s : State} {o : PortId} {v : Service} (hstate : (s.port o).tx.state = .sending)
    (hv : (s.port o).tx.service = some v) (hstarted : v.started = true) :
    execDeparture o s = .next ((Event.start s).depart o v.src).finish := by
  have hsending : (s.port o).tx.sendingCell = some v.src := by
    simp [Transmitter.sendingCell, hstate, hv, hstarted]
  unfold execDeparture
  rw [hsending]

/-! ### Departures that free no place (R93, R125) -/

/-- The state once a copy in service of `o` has left an entry that stays, before the output takes note. -/
def State.leftKept (s : State) (o : PortId) (src : Source) : State :=
  withPort (withPort s o (s.port o).sent) src.input (((withPort s o (s.port o).sent).port src.input).depart o src)

@[simp] theorem Port.depart_monitor (o : PortId) (src : Source) (x : Port) : (x.depart o src).monitor = x.monitor := by
  cases src <;> rfl

/-- The departure of a copy that leaves its entry to other outputs, whole: no place is freed and no drain check made. -/
theorem Event.finish_depart_of_kept {s : State} {o : PortId} {src : Source} (hm : ∀ m, MeterLaw (s.meters.get m))
    (hkeeps : (s.departing o src).2 = false) :
    let n := (s.port o).monitor.waiting - 1
    ((Event.start s).depart o src).finish =
      notify (afterPick { waited (s.leftKept o src) o n with
        meters := .ofFn fun m => meterAfter (s.meters.get m) o (s.departing o src).1 } o)
        (flagEdge s o n ++ captures s o) := by
  intro n
  let e := ((Event.start s).modPort o Port.sent).modPort src.input (Port.depart o src)
  have hmonitor : (e.port o).monitor = (s.port o).monitor := by
    have hsent : (((Event.start s).modPort o Port.sent).port o).monitor = (s.port o).monitor := by
      rw [Event.modPort_port_self]; rfl
    rw [Event.modPort_port]
    split
    · rw [Port.depart_monitor, hsent]
    · exact hsent
  have hdepart : (Event.start s).depart o src =
      ((e.setWaiting o n).meterDeparture o (s.departing o src).1).pickCheck o := by
    have hleaves : ((Event.start s).modPort o Port.sent).leaves o src 0 = e := by simp [Event.leaves, Event.free, e]
    have hparts := Event.complete_parts (Event.start s) o src
    simp only [Event.start_toState, hkeeps, Bool.false_eq_true, if_false, hleaves, hmonitor] at hparts
    unfold Event.depart
    rw [hparts, Event.drainChecks_of_not_drained 24 (by simp)]
  obtain ⟨rs, rr, rf⟩ := Event.noteDeparture_eq (c := e) hm o n (s.departing o src).1
  have hraised : (((e.setWaiting o n).meterDeparture o (s.departing o src).1).pickCheck o).raised =
      flagEdge s o n ++ captures s o :=
    rr.trans (congrArg (· ++ captures s o) (flagEdge_congr hmonitor n))
  rw [hdepart, Event.finish_of_freed_nil _ rf, rs, hraised, sortNotices_departure]
  rfl

end Sys2Proof.Machine

namespace Sys2Proof.Proofs

open Sys2Proof Sys2Proof.Machine Sys2Proof.Safety

/-- Settles O29: the copy leaves its entry, which stays for its other outputs or, left with none, frees its place. -/
theorem copyDeparture : Obligations.CopyDeparture := by
  intro s o i v header payload before after e x n hstate hv hstarted hsrc hlink hcopies he hbefore hm sent metered
  have hexec : exec (.departure o) s = .next ((Event.start s).depart o (.copy i)).finish :=
    hsrc ▸ execDeparture_of_sending hstate hv hstarted
  have hdeparting := State.departing_copy (Port.servedCopy_of_split hcopies he hbefore)
  have hsent : withPort s o (s.port o).sent = sent := congrArg (withPort s o) (Port.sent_of_cell hlink)
  obtain ⟨hqueues, hc, -⟩ := withPort_sent s o i
  rw [hsent] at hqueues hc
  have hdepart : (sent.port i).depart o (.copy i) =
      { sent.port i with copies := before ++ departCopy o (e :: after) } := by
    rw [← departCopy_append _ hbefore, ← hcopies, ← hc]
    rfl
  refine ⟨fun hkept => ?_, fun hlast hdrain => ?_⟩
  · rw [departCopy_of_kept after he hkept] at hdepart
    have hleft : s.leftKept o (.copy i) =
        withPort sent i { sent.port i with copies := before ++ e.lose o :: after } := by
      rw [State.leftKept, hsent, ← hdepart]
      rfl
    have h := Event.finish_depart_of_kept (s := s) (o := o) (src := .copy i) hm (by simp [hdeparting, hkept])
    rw [hdeparting, hleft] at h
    exact hexec.trans (congrArg Host.Outcome.next h)
  · rw [departCopy_of_last after he hlast] at hdepart
    have hleft : s.left o (.copy i) = withPort sent i { sent.port i with
        copies := before ++ after
        account := freedAccount (s.port i) keyM } := by
      rw [State.left, hsent]
      show withPort sent i { (sent.port i).depart o (.copy i) with account := freedAccount (s.port i) keyM } = _
      rw [hdepart]
    have hundrained : (s.left o (.copy i)).drained i = false := by
      have hadmin := (s.left_port o i (.copy i)).2.1
      have hempty : ((s.left o (.copy i)).port i).Empty ↔
          (∀ q d, (s.port i).queue q d = []) ∧ before ++ after = [] := by
        rw [hleft, withPort_port_self]
        unfold Port.Empty Port.queue
        rw [← hqueues]
      rw [State.drained_eq_false_iff, hadmin, hempty]
      rcases hdrain with h | h | ⟨q, d, h⟩
      · exact .inl h
      · exact .inr fun hnone => h hnone.2
      · exact .inr fun hnone => h (hnone.1 q d)
    have h := Event.finish_depart (src := .copy i) hm (by simp [hdeparting, hlast]) hundrained
    rw [hdeparting, hleft] at h
    exact hexec.trans (congrArg Host.Outcome.next h)

end Sys2Proof.Proofs

/-! # Arbiters and monitors, whatever command is taken (O52) -/

namespace Sys2Proof.Safety

open Sys2Proof Sys2Proof.Machine

/-! ### The law of an arbiter (R101, R105 to R112, R115 to R118) -/

section

variable {a : Arbiter} (h : ArbiterLaw a)
include h

theorem ArbiterLaw.refill : ArbiterLaw a.refill := by
  obtain ⟨hw, hr, hb, -⟩ := h
  exact ⟨hw, hr, hb, Nat.min_le_right _ _⟩

theorem ArbiterLaw.reload : ArbiterLaw a.reload := by
  obtain ⟨hw, hrest⟩ := h
  exact ⟨fun i => ⟨(hw i).2.1, (hw i).2.1, le_rfl⟩, hrest⟩

/-- An express pick takes from the level (R105). -/
theorem ArbiterLaw.express (i : PortId) : ArbiterLaw { a with expressPtr := i, level := a.level - 256 } := by
  obtain ⟨hw, hr, hb, hl⟩ := h
  exact ⟨hw, hr, hb, (Nat.sub_le _ _).trans hl⟩

/-- A bulk-round pick takes from one allowance (R109). -/
theorem ArbiterLaw.bulk (i : PortId) (turn : Table Turn 24) :
    ArbiterLaw { a with allowance := a.allowance.put i (a.allowance.get i - 1), bulkPtr := i, turn := turn } := by
  obtain ⟨hw, hrest⟩ := h
  refine ⟨fun j => ⟨(hw j).1, (hw j).2.1, ?_⟩, hrest⟩
  show (a.allowance.put i (a.allowance.get i - 1)).get j ≤ a.weight.get j
  rw [Table.get_put]
  split
  · next hj =>
    subst hj
    exact (Nat.sub_le _ _).trans (hw j).2.2
  · exact (hw j).2.2

theorem ArbiterLaw.stage {row : Table Nat 24} (hrow : ∀ i, row.get i ≤ 63) : ArbiterLaw { a with staged := row } := by
  obtain ⟨hw, hrest⟩ := h
  exact ⟨fun i => ⟨(hw i).1, hrow i, (hw i).2.2⟩, hrest⟩

theorem ArbiterLaw.stageOne (i : PortId) (w : Nat) : ArbiterLaw { a with staged := a.staged.put i (clampTop 63 w) } := by
  have hw := h.1
  refine h.stage fun j => ?_
  rw [Table.get_put]
  split
  · exact Nat.min_le_right _ _
  · exact (hw j).2.1

theorem ArbiterLaw.expressSet (r b : Nat) : ArbiterLaw { a with
    rate := clampTop 256 r, burst := clampRange 1 16 b, level := min a.level (256 * clampRange 1 16 b) } := by
  obtain ⟨hw, -⟩ := h
  refine ⟨hw, Nat.min_le_right _ _, ?_, Nat.min_le_right _ _⟩
  simp only [clampRange]
  omega

theorem ArbiterLaw.fabricReset : ArbiterLaw a.fabricReset := by
  obtain ⟨hw, hr, hb, -⟩ := h
  exact ⟨fun i => ⟨(hw i).1, (hw i).2.1, by simp [Arbiter.fabricReset]⟩, hr, hb, Nat.zero_le _⟩

end

/-! ### The law of a monitor (R141, R144) -/

/-- R144: TH is at most 1023, and TL below it or, of a monitor that is off, 0. -/
def ThresholdLaw (th tl : Nat) : Prop := th ≤ 1023 ∧ (th = 0 → tl = 0) ∧ (th ≠ 0 → tl < th)

theorem MonitorLaw.thresholds {m : Monitor} (h : MonitorLaw m) : ThresholdLaw m.th m.tl := by
  obtain ⟨hth, hoff, hon⟩ := h
  exact ⟨hth, fun h => (hoff h).1, fun h => (hon h).1⟩

theorem thresholdLaw_applied (th tl : Nat) : ThresholdLaw (clampTop 1023 th) (lowThreshold (clampTop 1023 th) tl) := by
  refine ⟨Nat.min_le_right _ _, fun h => if_pos h, fun h => ?_⟩
  rw [lowThreshold, if_neg h]
  omega

/-- An evaluation makes the flag lawful at any waiting count, whatever it was (R141). -/
theorem ThresholdLaw.flagAfter {th tl : Nat} (h : ThresholdLaw th tl) (n : Nat) (flag : Bool) :
    MonitorLaw { waiting := n, th := th, tl := tl, flag := flagAfter th tl n flag } := by
  obtain ⟨hth, hoff, hon⟩ := h
  unfold Safety.flagAfter
  by_cases h0 : th = 0
  · simp [MonitorLaw, h0, hoff h0]
  have hlt := hon h0
  rw [if_neg h0]
  refine ⟨hth, fun h => absurd h h0, fun _ => ⟨hlt, ?_⟩⟩
  dsimp only
  split
  · exact ⟨fun _ => by omega, nofun⟩
  split
  · exact ⟨nofun, fun _ => by omega⟩
  · exact ⟨fun _ => by omega, fun _ => by omega⟩

end Sys2Proof.Safety

namespace Sys2Proof.Machine

open Sys2Proof Sys2Proof.Safety

/-! ### The arbiter that a pick leaves (R105 to R111) -/

/-- A pick is one of the express phase, or by allowance or spare service with or without a reload (R105, R109 to R111). -/
theorem State.nextPick_cases {s : State} {o : PortId} {k : Pick} (h : s.nextPick o = some k) :
    s.expressPick o (s.port o).arbiter = some k ∨
      ∃ a, (a = (s.port o).arbiter ∨ a = (s.port o).arbiter.reload) ∧
        (s.allowancePick o a = some k ∨ s.sparePick o a = some k) := by
  unfold State.nextPick at h
  split at h
  · next he => exact .inl (he.trans h)
  refine .inr ?_
  unfold State.bulkPick at h
  split at h
  · next ha => exact ⟨_, .inl rfl, .inl (ha.trans h)⟩
  split at h
  · split at h
    · next ha => exact ⟨_, .inr rfl, .inl (ha.trans h)⟩
    · exact ⟨_, .inr rfl, .inr h⟩
  · exact ⟨_, .inl rfl, .inr h⟩

theorem State.nextPick_arbiterLaw {s : State} {o : PortId} {k : Pick} (h : s.nextPick o = some k)
    (ha : ArbiterLaw (s.port o).arbiter) : ArbiterLaw k.arbiter := by
  rcases State.nextPick_cases h with he | ⟨a, hreload, hpick⟩
  · unfold State.expressPick at he
    split at he
    · obtain ⟨i, -, rfl⟩ := Option.map_eq_some_iff.1 he
      exact ha.express i
    · cases he
  · have hlaw : ArbiterLaw a := by
      rcases hreload with rfl | rfl
      · exact ha
      · exact ha.reload
    rcases hpick with hp | hp
    · obtain ⟨i, -, rfl⟩ := Option.map_eq_some_iff.1 hp
      exact hlaw.bulk i _
    · obtain ⟨i, -, rfl⟩ := Option.map_eq_some_iff.1 hp
      exact hlaw

/-! ### Two ports, and two events, compared by the laws of their outputs -/

/-- The arbiter and the monitor of `y` keep their laws where those of `x` do. -/
structure Port.Regular (x y : Port) : Prop where
  arbiter : ArbiterLaw x.arbiter → ArbiterLaw y.arbiter
  monitor : MonitorLaw x.monitor → MonitorLaw y.monitor

theorem Port.Regular.of_eq {x y : Port} (ha : y.arbiter = x.arbiter) (hm : y.monitor = x.monitor) : x.Regular y :=
  ⟨fun h => ha ▸ h, fun h => hm ▸ h⟩

theorem Port.Regular.refl (x : Port) : x.Regular x := .of_eq rfl rfl

theorem Port.Regular.trans {x y z : Port} (h : x.Regular y) (h' : y.Regular z) : x.Regular z :=
  ⟨fun hx => h'.arbiter (h.arbiter hx), fun hx => h'.monitor (h.monitor hx)⟩

theorem Event.regular_refl (c : Event) : c.Ports Port.Regular c := fun _ => .refl _

theorem Event.Ports.regular_trans {c d e : Event} (h : c.Ports Port.Regular d) (h' : d.Ports Port.Regular e) :
    c.Ports Port.Regular e := fun q => (h q).trans (h' q)

theorem Event.modPort_regular {c : Event} {p : PortId} {f : Port → Port} (h : (c.port p).Regular (f (c.port p))) :
    c.Ports Port.Regular (c.modPort p f) := Event.modPort_ports .refl c p f h

/-- A change of a port that leaves its arbiter and its monitor. -/
theorem Event.modPort_regular_of_eq {c : Event} {p : PortId} {f : Port → Port}
    (ha : (f (c.port p)).arbiter = (c.port p).arbiter) (hm : (f (c.port p)).monitor = (c.port p).monitor) :
    c.Ports Port.Regular (c.modPort p f) := Event.modPort_regular (.of_eq ha hm)

theorem Event.foldl_regular {α : Type} (f : Event → α → Event) (hf : ∀ (c : Event) a, c.Ports Port.Regular (f c a))
    (l : List α) (c : Event) : c.Ports Port.Regular (l.foldl f c) := by
  induction l generalizing c with
  | nil => exact c.regular_refl
  | cons a l ih => exact (hf c a).regular_trans (ih _)

/-! ### The shared operations -/

theorem Event.raise_regular (c : Event) (n : Notice) : c.Ports Port.Regular (c.raise n) := c.regular_refl

theorem Event.raiseIf_regular (c : Event) (b : Bool) (n : Notice) : c.Ports Port.Regular (c.raiseIf b n) := by
  cases b <;> exact c.regular_refl

theorem Event.count_regular (c : Event) (p : PortId) (k : Counter) : c.Ports Port.Regular (c.count p k) :=
  Event.modPort_regular_of_eq rfl rfl

theorem Event.free_regular (c : Event) (i : PortId) (k : Key) (n : Nat) : c.Ports Port.Regular (c.free i k n) := by
  intro q
  rw [Event.free_port]
  split
  · rw [Port.freePlaces_eq]
    exact .of_eq rfl rfl
  · exact .refl _

theorem Event.finish_regular (c : Event) (q : PortId) : (c.port q).Regular (c.finish.port q) := by
  rw [Event.finish_port]
  exact .of_eq rfl rfl

theorem Event.guardFault_regular (c : Event) (p : PortId) (k : FaultKind) : c.Ports Port.Regular (c.guardFault p k) := by
  intro q
  show Port.Regular _ ((c.guardFault p k).toState.port q)
  rw [(c.guardFault_eq p k).1]
  exact Event.modPort_regular_of_eq (f := fun _ => { c.port p with guard := afterFault (c.port p).guard k }) rfl rfl q

theorem Event.clearGuard_regular (c : Event) (p : PortId) : c.Ports Port.Regular (c.clearGuard p) :=
  (Event.modPort_regular_of_eq rfl rfl).regular_trans (Event.raiseIf_regular _ _ _)

/-- What a change of a waiting count does to arbiters and monitors (R140, R141). -/
theorem Event.setWaiting_output (c : Event) (o q : PortId) (n : Nat) :
    ((c.setWaiting o n).port q).arbiter = (c.port q).arbiter ∧
    ((c.setWaiting o n).port q).monitor =
      if q = o then
        { (c.port q).monitor with
          waiting := n, flag := flagAfter (c.port q).monitor.th (c.port q).monitor.tl n (c.port q).monitor.flag }
      else (c.port q).monitor := by
  have hport : (c.setWaiting o n).port q = (waited c.toState o n).port q :=
    congrArg (State.port · q) (c.setWaiting_eq o n).1
  rw [hport]
  simp only [waited, State.port, Table.get_ofFn, true_and]
  by_cases h : q = o
  · subst h; rfl
  · rw [if_neg h, if_neg h]

theorem Event.setWaiting_regular (c : Event) (o : PortId) (n : Nat) : c.Ports Port.Regular (c.setWaiting o n) := by
  intro q
  obtain ⟨ha, hm⟩ := c.setWaiting_output o q n
  refine ⟨fun h => ha ▸ h, fun h => ?_⟩
  rw [hm]
  split
  · exact h.thresholds.flagAfter n _
  · exact h

/-- An evaluation is a change of the waiting count to itself (R141). -/
theorem Event.evaluate_eq_setWaiting (c : Event) (o : PortId) :
    c.evaluate o = c.setWaiting o (c.port o).monitor.waiting := by
  unfold Event.setWaiting
  rw [Event.modPort_self rfl]

/-- What an evaluation does to arbiters and monitors (R141). -/
theorem Event.evaluate_output (c : Event) (o q : PortId) :
    ((c.evaluate o).port q).arbiter = (c.port q).arbiter ∧
    ((c.evaluate o).port q).monitor =
      if q = o then { (c.port q).monitor with flag := (c.port q).monitor.evaluated } else (c.port q).monitor := by
  obtain ⟨ha, hm⟩ := c.setWaiting_output o q (c.port o).monitor.waiting
  rw [Event.evaluate_eq_setWaiting]
  refine ⟨ha, hm.trans ?_⟩
  split
  · next hq => subst hq; rfl
  · rfl

/-- New thresholds are followed by an evaluation (R144). -/
theorem Event.thresholds_regular (c : Event) (o : PortId) {th tl : Nat} (h : ThresholdLaw th tl) :
    c.Ports Port.Regular
      ((c.modPort o fun x => { x with monitor := { x.monitor with th := th, tl := tl } }).evaluate o) := by
  intro q
  obtain ⟨ha, hm⟩ := Event.evaluate_output
    (c.modPort o fun x => { x with monitor := { x.monitor with th := th, tl := tl } }) o q
  by_cases hq : q = o
  · subst hq
    rw [Event.modPort_port_self] at ha hm
    rw [if_pos rfl] at hm
    exact ⟨fun hx => ha ▸ hx, fun _ => hm ▸ h.flagAfter _ _⟩
  · rw [Event.modPort_port_ne _ _ hq] at ha hm
    rw [if_neg hq] at hm
    exact .of_eq ha hm

/-! ### Outputs that become unavailable, drains, links (R20, R21, R61, R157, R162) -/

theorem Event.closeOutput_regular (c : Event) (o : PortId) : c.Ports Port.Regular (c.closeOutput o) := by
  intro q
  obtain ⟨-, -, -, harbiter⟩ := c.closeOutput_store o q
  refine ⟨fun h => by rwa [harbiter], fun h => ?_⟩
  rw [Event.closeOutput_port]
  dsimp only
  split
  · next hq => exact (hq ▸ h).thresholds.flagAfter _ _
  · exact h

theorem Event.endDrain_regular (c : Event) (i : PortId) : c.Ports Port.Regular (c.endDrain i) :=
  (Event.modPort_regular_of_eq rfl rfl).regular_trans (Event.raise_regular _ _)

theorem Event.drainChecks_regular (n : Nat) (l : List PortId) (c : Event) :
    c.Ports Port.Regular (c.drainChecks n l) :=
  Event.drainChecks_induct (fun d => c.Ports Port.Regular d)
    (fun d i h _ => (h.regular_trans (d.endDrain_regular i)).regular_trans (Event.closeOutput_regular _ i)) n l c
    c.regular_refl

theorem Event.outputUnavailable_regular (c : Event) (o : PortId) : c.Ports Port.Regular (c.outputUnavailable o) :=
  (c.closeOutput_regular o).regular_trans (Event.drainChecks_regular _ _ _)

theorem Event.pickCheck_regular (c : Event) (o : PortId) : c.Ports Port.Regular (c.pickCheck o) := by
  intro q
  rcases c.pickCheck_port o q with h | ⟨-, -, k, hk, h⟩
  · rw [h]
    exact .refl _
  · rw [h]
    refine ⟨fun ha => ?_, id⟩
    dsimp only
    split
    · next hq => exact State.nextPick_arbiterLaw hk (hq ▸ ha)
    · exact ha

theorem Event.enterDown_regular (c : Event) (p : PortId) : c.Ports Port.Regular (c.enterDown p) := by
  unfold Event.enterDown
  split
  · exact (((Event.modPort_regular_of_eq rfl rfl).regular_trans (Event.raise_regular _ _)).regular_trans
      (Event.raiseIf_regular _ _ _)).regular_trans (Event.outputUnavailable_regular _ _)
  · exact Event.modPort_regular_of_eq rfl rfl

theorem Event.enterUp_regular (c : Event) (p : PortId) (good : Nat) : c.Ports Port.Regular (c.enterUp p good) := by
  have up : c.Ports Port.Regular (c.modPort p fun x =>
    { x with rx := { x.rx with link := .up, good := good, bad := 0 }, tx := x.tx.linkUp }) :=
    Event.modPort_regular_of_eq rfl rfl
  unfold Event.enterUp
  dsimp only
  refine Event.Ports.regular_trans ?_ ((Event.raise_regular _ _).regular_trans (Event.pickCheck_regular _ _))
  split
  · exact up.regular_trans (Event.modPort_regular_of_eq rfl rfl)
  · exact up

theorem Event.resetPort_regular (c : Event) (p : PortId) : c.Ports Port.Regular (c.resetPort p) :=
  ((c.enterDown_regular p).regular_trans (Event.clearGuard_regular _ _)).regular_trans
    (Event.modPort_regular_of_eq rfl rfl)

theorem Event.enable_regular (c : Event) (p : PortId) : c.Ports Port.Regular (c.enable p).1 := by
  have enabled : c.Ports Port.Regular (c.modPort p fun x => { x with admin := .enabled }) :=
    Event.modPort_regular_of_eq rfl rfl
  unfold Event.enable
  dsimp only
  split
  · exact c.regular_refl
  · dsimp only
    split
    · exact enabled.regular_trans (Event.modPort_regular_of_eq rfl rfl)
    · exact enabled
  · refine Event.Ports.regular_trans ?_ (Event.pickCheck_regular _ _)
    split
    · exact enabled.regular_trans (Event.modPort_regular_of_eq rfl rfl)
    · exact enabled

theorem Event.drain_regular (c : Event) (p : PortId) : c.Ports Port.Regular (c.drain p) := by
  unfold Event.drain
  split
  · exact (Event.modPort_regular_of_eq rfl rfl).regular_trans (Event.drainChecks_regular _ _ _)
  all_goals exact c.regular_refl

theorem Event.disable_regular (c : Event) (p : PortId) : c.Ports Port.Regular (c.disable p) := by
  unfold Event.disable
  split
  · exact (Event.modPort_regular_of_eq rfl rfl).regular_trans (Event.outputUnavailable_regular _ _)
  · exact (Event.modPort_regular_of_eq rfl rfl).regular_trans (Event.outputUnavailable_regular _ _)
  · exact c.regular_refl

/-! ### Departures (R112, R125) -/

theorem Event.meterDeparture_regular (c : Event) (o : PortId) (d : Departed) :
    c.Ports Port.Regular (c.meterDeparture o d) := by
  have taken (m : Table Meter 8) : c.Ports Port.Regular { c with meters := m } := c.regular_refl
  exact (taken _).regular_trans (Event.foldl_regular _ (fun e _ => e.raiseIf_regular _ _) _ _)

theorem Event.leaves_regular (c : Event) (o : PortId) (src : Source) (n : Nat) :
    c.Ports Port.Regular (c.leaves o src n) := by
  have left : c.Ports Port.Regular (c.modPort src.input (Port.depart o src)) := by
    cases src <;> exact Event.modPort_regular_of_eq rfl rfl
  exact left.regular_trans (Event.free_regular _ _ _ _)

theorem Event.depart_regular (c : Event) (o : PortId) (src : Source) : c.Ports Port.Regular (c.depart o src) := by
  have sent : c.Ports Port.Regular (c.modPort o Port.sent) := Event.modPort_regular ⟨ArbiterLaw.refill, id⟩
  unfold Event.depart
  rw [Event.complete_parts]
  exact ((((sent.regular_trans (Event.leaves_regular _ _ _ _)).regular_trans
    (Event.setWaiting_regular _ _ _)).regular_trans (Event.meterDeparture_regular _ _ _)).regular_trans
    (Event.drainChecks_regular _ _ _)).regular_trans (Event.pickCheck_regular _ _)

/-! ### Classification (R26) -/

theorem Event.discardCharged_regular (c : Event) (p : PortId) (key : Key) (k : Counter) :
    c.Ports Port.Regular (c.discardCharged p key k) := (c.count_regular p k).regular_trans (Event.free_regular _ _ _ _)

theorem Event.acceptCell_regular (c : Event) (p d : PortId) (h : Header) (payload : List Byte) :
    c.Ports Port.Regular (c.acceptCell p d h payload) :=
  (((Event.modPort_regular_of_eq rfl rfl).regular_trans (Event.count_regular _ _ _)).regular_trans
    (Event.setWaiting_regular _ _ _)).regular_trans (Event.pickCheck_regular _ _)

theorem Event.acceptCopies_regular (c : Event) (p : PortId) (h : Header) (payload : List Byte) (r : OutSet) :
    c.Ports Port.Regular (c.acceptCopies p h payload r) :=
  (((Event.modPort_regular_of_eq rfl rfl).regular_trans (Event.count_regular _ _ _)).regular_trans
    (Event.foldl_regular _ (fun e o => e.setWaiting_regular o _) _ _)).regular_trans
    (Event.foldl_regular _ (fun e o => e.pickCheck_regular o) _ _)

theorem Event.place_regular (c : Event) (p : PortId) (h : Header) (payload : List Byte) :
    c.Ports Port.Regular (c.place p h payload) := by
  have looked (g : Table GroupSet 256) : c.Ports Port.Regular { c with groups := g } := c.regular_refl
  unfold Event.place
  split
  · dsimp only
    split
    · exact c.discardCharged_regular _ _ _
    · split
      · exact (looked _).regular_trans (Event.discardCharged_regular _ _ _ _)
      · exact (looked _).regular_trans (Event.acceptCopies_regular _ _ _ _ _)
  · split
    · dsimp only
      split
      · exact c.acceptCell_regular _ _ _ _
      · exact c.discardCharged_regular _ _ _
    · exact c.regular_refl

theorem Event.classify_regular (c : Event) (p : PortId) (data : List Byte) (closed : CellEnd) :
    c.Ports Port.Regular (c.classify p data closed) := by
  have fault (k : Counter) (f : FaultKind) : c.Ports Port.Regular ((c.discard p k).guardFault p f) :=
    (c.count_regular p k).regular_trans (Event.guardFault_regular _ _ _)
  have issued (k : Counter) (f : FaultKind) :
      c.Ports Port.Regular (((c.discard p k).guardFault p f).modPort p Port.issue) :=
    (fault k f).regular_trans (Event.modPort_regular_of_eq rfl rfl)
  have charged (k : Key) : c.Ports Port.Regular (c.charge p k) := Event.modPort_regular_of_eq rfl rfl
  unfold Event.classify
  dsimp only
  split
  · exact c.count_regular _ _
  split
  · exact c.count_regular _ _
  split
  · exact issued _ _
  split
  · exact c.count_regular _ _
  split
  · exact issued _ _
  split
  · exact fault _ _
  split
  · exact (charged _).regular_trans (Event.discardCharged_regular _ _ _ _)
  · exact (charged _).regular_trans (Event.place_regular _ _ _ _)

/-! ### Fabric reset (R121, R146, R183) -/

/-- The evaluations of several outputs, each made once. -/
theorem Event.foldl_evaluate_output {l : List PortId} (hl : l.Nodup) (c : Event) (q : PortId) :
    ((l.foldl (fun e o => e.evaluate o) c).port q).arbiter = (c.port q).arbiter ∧
    ((l.foldl (fun e o => e.evaluate o) c).port q).monitor =
      if q ∈ l then { (c.port q).monitor with flag := (c.port q).monitor.evaluated } else (c.port q).monitor := by
  induction l generalizing c with
  | nil => simp
  | cons o l ih =>
    obtain ⟨ho, hl⟩ := List.nodup_cons.1 hl
    obtain ⟨ha, hm⟩ := c.evaluate_output o q
    obtain ⟨iha, ihm⟩ := ih hl (c.evaluate o)
    refine ⟨iha.trans ha, ihm.trans ?_⟩
    rw [hm]
    by_cases hq : q = o
    · subst hq
      simp [ho]
    · simp [hq]

theorem Event.fabricReset_regular (c : Event) : c.Ports Port.Regular c.fabricReset := by
  intro q
  -- the event once the blocks are reset and the notices raised
  let told := allPorts.foldl (fun e p => e.fabricNotices p (c.port p))
    ({ c with ports := c.ports.map Port.fabricReset, meters := c.meters.map Meter.fabricReset } : Event)
  have htold : told.port q = (c.port q).fabricReset := by
    refine (Event.foldl_port (fun e p => e.fabricNotices p (c.port p)) (fun _ x => x) (fun e i q => ?_) allPorts
      nodup_allPorts _ q).trans ?_
    · simp [Event.fabricNotices]
    · rw [if_pos (mem_allPorts q)]
      exact Table.get_map _ _ _
  obtain ⟨ha, hm⟩ := Event.foldl_evaluate_output nodup_allPorts told q
  rw [htold] at ha hm
  have issued (e : Event) :
      ({ e with ports := e.ports.map Port.issueIfLending } : Event).port q = (e.port q).issueIfLending :=
    Table.get_map _ _ _
  have hport : c.fabricReset.port q = ((allPorts.foldl (fun e o => e.evaluate o) told).port q).issueIfLending :=
    issued _
  have hissue (x : Port) : x.Regular x.issueIfLending := by
    unfold Port.issueIfLending
    split <;> exact .of_eq rfl rfl
  rw [hport]
  refine Port.Regular.trans ⟨fun h => ?_, fun h => ?_⟩ (hissue _)
  · rw [ha]
    exact h.fabricReset
  · rw [hm, if_pos (mem_allPorts q)]
    exact h.thresholds.flagAfter 0 _

/-! ### Every command keeps the laws of arbiters and of monitors -/

/-- Port by port, the second state stands to the first as `Port.Regular` says. -/
def State.Regular (s t : State) : Prop := ∀ q, (s.port q).Regular (t.port q)

theorem State.Regular.refl (s : State) : s.Regular s := fun _ => .refl _

theorem Event.Ports.finish_regular {s : State} {c : Event} (h : (Event.start s).Ports Port.Regular c) :
    s.Regular c.finish := fun q => (h q).trans (c.finish_regular q)

theorem Ends.regular {s : State} {c : Event} (h : (Event.start s).Ports Port.Regular c) :
    Ends s.Regular (.next c.finish) := .next h.finish_regular

theorem Ends.held_regular {s : State} {a : Answer} {sp : SupPort} {code : Byte}
    (ha : a.Leads ((Event.start s).Ports Port.Regular)) :
    Ends s.Regular (.next (s.answered sp code (s.holderOnly sp a))) := by
  refine .held (I := s.Regular) (fun _ _ _ _ _ h => h) (.refl s) ?_
  cases a with
  | done c d => exact Event.Ports.finish_regular ha
  | deny st d => trivial

theorem Event.modArbiter_regular {c : Event} {o : PortId} {f : Arbiter → Arbiter}
    (hf : ∀ a, ArbiterLaw a → ArbiterLaw (f a)) : c.Ports Port.Regular (c.modArbiter o f) :=
  Event.modPort_regular ⟨hf _, id⟩

theorem State.powerUp_regular (s : State) (l : List Instr) : s.Regular { State.reset with pending := l } := by
  intro q
  have hport : ({ State.reset with pending := l } : State).port q = Port.powerUp := Table.get_fill _ _
  rw [hport]
  exact ⟨fun _ => by unfold ArbiterLaw; decide, fun _ => by unfold MonitorLaw; decide⟩

theorem Event.markHead_regular (c : Event) (o : PortId) : c.Ports Port.Regular (c.markHead o) := by
  unfold Event.markHead
  split
  · exact Event.modPort_regular_of_eq rfl rfl
  · exact c.regular_refl

theorem execHold_regular (p : PortId) (s : State) : Ends s.Regular (execHold p s) := by
  unfold execHold
  split
  · split
    · exact .regular ((Event.markHead_regular _ _).regular_trans (Event.modPort_regular_of_eq rfl rfl))
    · exact .regular (Event.modPort_regular_of_eq rfl rfl)
    all_goals exact .next (.refl s)
  · exact .next (.refl s)

theorem execRelease_regular (p : PortId) (s : State) : Ends s.Regular (execRelease p s) := by
  unfold execRelease
  split
  · split
    · split
      · exact .regular (Event.modPort_regular_of_eq rfl rfl)
      · exact .regular ((Event.modPort_regular_of_eq rfl rfl).regular_trans (Event.pickCheck_regular _ _))
    · exact .regular (((Event.modPort_regular_of_eq rfl rfl).regular_trans (Event.raise_regular _ _)).regular_trans
        (Event.pickCheck_regular _ _))
    all_goals exact .next (.refl s)
  · exact .next (.refl s)

theorem execMarkerReceived_regular (p : PortId) (w : ControlWord) (s : State) :
    Ends s.Regular (execMarkerReceived p w s) := by
  have rx (r : Receiver) : Ends s.Regular (.next ((Event.start s).modPort p fun x => { x with rx := r }).finish) :=
    .regular (Event.modPort_regular_of_eq rfl rfl)
  unfold execMarkerReceived
  dsimp only
  split
  · split
    · exact .next (.refl s)
    · exact rx _
    · split
      · split
        · exact .regular (Event.enterUp_regular _ _ _)
        · exact rx _
      · exact rx _
    · split
      · exact rx _
      · split
        · exact .regular (Event.enterDown_regular _ _)
        · exact rx _
  · exact .next (.refl s)

theorem execLockLost_regular (p : PortId) (cut : CutShort) (s : State) : Ends s.Regular (execLockLost p cut s) := by
  unfold execLockLost
  split
  · refine .regular (Event.Ports.regular_trans ?_ (Event.enterDown_regular _ p))
    split
    · exact Event.count_regular _ _ _
    · exact Event.regular_refl _
  · exact .next (.refl s)

theorem execUnitBoundary_regular (o : PortId) (s : State) : Ends s.Regular (execUnitBoundary o s) := by
  unfold execUnitBoundary
  split
  · refine .regular (Event.modPort_regular ?_)
    obtain ⟨a, t, h, -⟩ := s.nextUnit_chooses o { s.port o with tx := (s.port o).tx.endUnit .whole }
    show (s.port o).Regular (s.nextUnit o { s.port o with tx := (s.port o).tx.endUnit .whole })
    rw [h]
    exact .of_eq rfl rfl
  · exact .next (.refl s)

/-- Every command keeps the law of each arbiter and of each monitor. -/
theorem exec_regular (i : Instr) (s : State) : Ends s.Regular (exec i s) := by
  have leaves (h : leavesPorts i = true) : Ends s.Regular (exec i s) := fun t ht q => by
    have hq : t.port q = s.port q := congrArg (Table.get · q) (exec_leavesPorts i s h t ht)
    rw [hq]
    exact .refl _
  cases i
  case powerUpReset => exact .next (s.powerUp_regular _)
  case lockAcquired p =>
    show Ends _ (execLockAcquired p s)
    unfold execLockAcquired
    split
    · exact .regular (Event.modPort_regular_of_eq rfl rfl)
    · exact .next (.refl s)
  case lockLost p cut => exact execLockLost_regular p cut s
  case markerReceived p w => exact execMarkerReceived_regular p w s
  case hold p => exact execHold_regular p s
  case release p => exact execRelease_regular p s
  case controlErrorWord p =>
    show Ends _ (execControlErrorWord p s)
    unfold execControlErrorWord
    split
    · exact .regular ((Event.count_regular _ _ _).regular_trans (Event.guardFault_regular _ _ _))
    · exact .next (.refl s)
  case cellReceptionComplete p data closed =>
    show Ends _ (execCellReceptionComplete p data closed s)
    unfold execCellReceptionComplete
    split
    · exact .regular (Event.classify_regular _ _ _ _)
    · exact .next (.refl s)
  case unitBoundary o => exact execUnitBoundary_regular o s
  case departure o =>
    show Ends _ (execDeparture o s)
    unfold execDeparture
    split
    · exact .regular (Event.depart_regular _ _ _)
    · exact .next (.refl s)
  case creditWordCompletion o =>
    show Ends _ (execCreditWordCompletion o s)
    unfold execCreditWordCompletion
    split
    · exact .regular (Event.modPort_regular_of_eq rfl rfl)
    · exact .next (.refl s)
  case resyncCompletion o =>
    show Ends _ (execResyncCompletion o s)
    unfold execResyncCompletion
    split
    · exact .regular (Event.modPort_regular_of_eq rfl rfl)
    · exact .next (.refl s)
  case congestionWordCompletion o =>
    show Ends _ (execCongestionWordCompletion o s)
    unfold execCongestionWordCompletion
    split
    · exact .regular (Event.modPort_regular_of_eq rfl rfl)
    · exact .next (.refl s)
  case holdTimerExpiry o =>
    show Ends _ (execHoldTimerExpiry o s)
    unfold execHoldTimerExpiry
    split
    · exact .regular (((Event.modPort_regular_of_eq rfl rfl).regular_trans (Event.raise_regular _ _)).regular_trans
        (Event.outputUnavailable_regular _ _))
    · exact .next (.refl s)
  case portAdminEnable | portAdminDrain | portAdminDisable | portReset | guardResume =>
    refine .held_regular ?_
    split
    · simp [Event.enable_regular, Event.drain_regular, Event.disable_regular, Event.resetPort_regular,
        Event.clearGuard_regular]
    · trivial
  case portResync =>
    refine .held_regular ?_
    split
    · rw [Answer.leads_below]
      intro h
      split
      · exact Event.modPort_regular_of_eq rfl rfl
      · exact Event.regular_refl _
    · trivial
  case guardSet =>
    refine .held_regular ?_
    split
    · simp only [Answer.leads_below, Answer.leads_named, Answer.leads_done]
      exact fun _ _ _ _ _ => (Event.modPort_regular_of_eq rfl rfl).regular_trans (Event.raiseIf_regular _ _ _)
    · trivial
  case linkParams | holdLimit | countersClear =>
    refine .held_regular ?_
    split
    · simp only [Answer.leads_below, Answer.leads_named, Answer.leads_done]
      intros
      exact Event.modPort_regular_of_eq rfl rfl
    · trivial
  case weightStage =>
    refine .held_regular ?_
    split
    · simp only [Answer.leads_below, Answer.leads_done]
      exact fun _ _ => Event.modArbiter_regular fun _ h => h.stageOne _ _
    · trivial
  case weightStageRow =>
    refine .held_regular ?_
    split
    · split
      · simp only [Answer.leads_below, Answer.leads_done]
        refine fun _ => Event.modArbiter_regular fun _ h => h.stage fun i => ?_
        rw [Table.get_ofFn]
        exact Nat.min_le_right _ _
      · trivial
    · trivial
  case expressSet =>
    refine .held_regular ?_
    split
    · simp only [Answer.leads_below, Answer.leads_done]
      exact fun _ => Event.modPort_regular ⟨fun h => h.expressSet _ _, id⟩
    · trivial
  case thresholds =>
    refine .held_regular ?_
    split
    · simp only [Answer.leads_below, Answer.leads_done]
      exact fun _ => Event.thresholds_regular _ _ (thresholdLaw_applied _ _)
    · trivial
  case fabricReset =>
    refine .held_regular ?_
    split
    · exact Event.fabricReset_regular _
    · trivial
  all_goals exact leaves rfl

end Sys2Proof.Machine

namespace Sys2Proof.Proofs

open Sys2Proof Sys2Proof.Machine Sys2Proof.Safety

/-- Settles O52: each shared operation keeps the law of an arbiter and that of a monitor, port by port, and a command is such
operations one after the other. -/
theorem stepKeepsArbitersAndMonitors : Obligations.StepKeepsArbitersAndMonitors := by
  refine ⟨fun s t hs ht => ?_, fun s t hs ht => ?_⟩
  · exact step_keeps (I := fun s => ∀ p, ArbiterLaw (s.port p).arbiter) (fun _ _ h => h)
      (fun i s h t ht p => (exec_regular i s t ht p).arbiter (h p)) hs ht
  · exact step_keeps (I := fun s => ∀ p, MonitorLaw (s.port p).monitor) (fun _ _ h => h)
      (fun i s h t ht p => (exec_regular i s t ht p).monitor (h p)) hs ht

end Sys2Proof.Proofs

/-! # The choice of a pick (O25) -/

namespace Sys2Proof.Machine

open Sys2Proof Sys2Proof.Safety

/-! ### Scans (R106, R109, R111) -/

theorem mem_scanFrom (ptr i : PortId) : i ∈ scanFrom ptr :=
  List.mem_map.2 ⟨i - (ptr + 1), mem_allPorts _, add_sub_cancel _ _⟩

/-- A scan takes the inputs by their distance from the one after the pointer. -/
theorem scanFrom_pairwise (ptr : PortId) :
    (scanFrom ptr).Pairwise fun i j => (i - (ptr + 1)).val < (j - (ptr + 1)).val := by
  refine List.pairwise_map.2 ((by decide : allPorts.Pairwise (· < ·)).imp fun {a b} h => ?_)
  rw [add_sub_cancel_left, add_sub_cancel_left]
  exact h

/-- What a scan finds is the first after the pointer. -/
theorem firstAfter_of_find? {ptr : PortId} {f : PortId → Bool} {i : PortId} (h : (scanFrom ptr).find? f = some i) :
    FirstAfter ptr f i := by
  obtain ⟨hi, before, after, hscan, hbefore⟩ := List.find?_eq_some_iff_append.1 h
  have hsorted := scanFrom_pairwise ptr
  rw [hscan, List.pairwise_append, List.pairwise_cons] at hsorted
  obtain ⟨-, ⟨hafter, -⟩, -⟩ := hsorted
  refine ⟨hi, fun j hj => ?_⟩
  have hmem := mem_scanFrom ptr j
  rw [hscan, List.mem_append, List.mem_cons] at hmem
  rcases hmem with hmem | rfl | hmem
  · have hnot := hbefore j hmem
    rw [hj] at hnot
    cases hnot
  · exact le_rfl
  · exact (hafter j hmem).le

/-- A scan finds the first that satisfies, where one does. -/
theorem exists_find?_scanFrom (ptr : PortId) {f : PortId → Bool} (h : ∃ i, f i = true) :
    ∃ i, (scanFrom ptr).find? f = some i ∧ FirstAfter ptr f i := by
  obtain ⟨j, hj⟩ := h
  obtain ⟨i, hi⟩ := Option.isSome_iff_exists.1 (List.find?_isSome.2 ⟨j, mem_scanFrom ptr j, hj⟩)
  exact ⟨i, hi, firstAfter_of_find? hi⟩

theorem find?_scanFrom_eq_none (ptr : PortId) {f : PortId → Bool} (h : ∀ i, f i = false) :
    (scanFrom ptr).find? f = none := List.find?_eq_none.2 fun i _ => by simp [h i]

/-! ### The candidate cell of an input (R107, R108) -/

theorem turnAfter_eq (t : Turn) (f : Offer) : t.after f = turnAfter t f := by cases f <;> rfl

section

variable {s : State} {o : PortId}

/-- An eligible input offers the cell that R107 names. -/
theorem State.offers_offer {i : PortId} (h : s.eligible o i = true) (turn : Turn) :
    Offers s o i turn (s.offer o i turn) := by
  have hexpress : s.expressWaits o i = true ↔ (s.port i).queue o .express ≠ [] := by simp [State.expressWaits]
  have hbulk : s.bulkWaits o i = true ↔ (s.port i).queue o .bulk ≠ [] := by simp [State.bulkWaits]
  have hcopy : s.copyWaits o i = true ↔ (s.port i).candidate o ≠ none := by
    simp [State.copyWaits, Option.isSome_iff_ne_none]
  simp only [State.eligible, Bool.or_eq_true] at h
  unfold State.offer
  split
  · next he => exact hexpress.1 he
  next he =>
  have hempty := not_not.1 (mt hexpress.2 he)
  split
  · next hboth =>
    obtain ⟨hb, hc⟩ := Bool.and_eq_true_iff.1 hboth
    cases turn
    · exact ⟨hempty, hbulk.1 hb, .inr rfl⟩
    · exact ⟨hempty, hcopy.1 hc, .inr rfl⟩
  next hboth =>
  split
  · next hb =>
    have hc : ¬ s.copyWaits o i = true := fun hc => hboth (Bool.and_eq_true_iff.2 ⟨hb, hc⟩)
    exact ⟨hempty, hbulk.1 hb, .inl (not_not.1 (mt hcopy.2 hc))⟩
  · next hb =>
    exact ⟨hempty, hcopy.1 (h.resolve_left fun h => h.elim he hb), .inl (not_not.1 (mt hbulk.2 hb))⟩

/-! ### The phases of a pick (R105 to R111) -/

/-- The express phase charges the first input with an express cell (R105, R106). -/
theorem State.expressPick_of_waits {a : Arbiter} (hl : 256 ≤ a.level) (h : ∃ i, s.expressWaits o i = true) :
    ∃ i, FirstAfter a.expressPtr (s.expressWaits o) i ∧
      s.expressPick o a = some { input := i, offer := .express, arbiter := { a with
        expressPtr := i, level := a.level - 256 } } := by
  obtain ⟨i, hi, hfirst⟩ := exists_find?_scanFrom a.expressPtr h
  refine ⟨i, hfirst, ?_⟩
  rw [State.expressPick, if_pos hl, hi]
  rfl

theorem State.expressPick_eq_none {a : Arbiter} (h : a.level < 256 ∨ ∀ i, s.expressWaits o i = false) :
    s.expressPick o a = none := by
  unfold State.expressPick
  split
  · next hl => rw [find?_scanFrom_eq_none _ (h.resolve_left (Nat.not_lt.2 hl))]; rfl
  · rfl

/-- The bulk round serves the first eligible input with allowance (R109). -/
theorem State.allowancePick_of_allowed {a : Arbiter} (h : ∃ i, s.eligible o i = true ∧ 0 < a.allowance.get i) :
    ∃ i f, FirstAfter a.bulkPtr (fun j => s.eligible o j && decide (0 < a.allowance.get j)) i ∧
      Offers s o i (a.turn.get i) f ∧ s.allowancePick o a = some { input := i, offer := f, arbiter := { a with
        allowance := a.allowance.put i (a.allowance.get i - 1), bulkPtr := i
        turn := a.turn.put i (turnAfter (a.turn.get i) f) } } := by
  obtain ⟨i, hi, hfirst⟩ := exists_find?_scanFrom a.bulkPtr
    (f := fun j => s.eligible o j && decide (0 < a.allowance.get j)) (by simpa using h)
  have heligible : s.eligible o i = true := (Bool.and_eq_true_iff.1 hfirst.1).1
  refine ⟨i, _, hfirst, State.offers_offer heligible _, ?_⟩
  rw [State.allowancePick, hi, ← turnAfter_eq]
  rfl

theorem State.allowancePick_eq_none {a : Arbiter} (h : ∀ i, s.eligible o i = true → a.allowance.get i = 0) :
    s.allowancePick o a = none := by
  unfold State.allowancePick
  rw [find?_scanFrom_eq_none _ fun i => ?_]
  · rfl
  · cases he : s.eligible o i
    · rfl
    · simp [h i he]

/-- Spare service serves the first eligible input (R111). -/
theorem State.sparePick_of_eligible (a : Arbiter) (h : ∃ i, s.eligible o i = true) :
    ∃ i f, FirstAfter a.sparePtr (s.eligible o) i ∧ Offers s o i (a.turn.get i) f ∧
      s.sparePick o a = some { input := i, offer := f, arbiter := { a with
        sparePtr := i, turn := a.turn.put i (turnAfter (a.turn.get i) f) } } := by
  obtain ⟨i, hi, hfirst⟩ := exists_find?_scanFrom a.sparePtr h
  refine ⟨i, _, hfirst, State.offers_offer hfirst.1 _, ?_⟩
  rw [State.sparePick, hi, ← turnAfter_eq]
  rfl

theorem State.sparePick_eq_none (a : Arbiter) (h : ∀ i, s.eligible o i = false) : s.sparePick o a = none := by
  rw [State.sparePick, find?_scanFrom_eq_none _ h]
  rfl

theorem State.reloadDue_iff (a : Arbiter) :
    s.reloadDue o a = true ↔ ∃ i, s.eligible o i = true ∧ (a.weight.get i ≠ 0 ∨ a.staged.get i ≠ 0) := by
  simp [State.reloadDue, mem_allPorts]

/-! ### The bulk round with its reload and spare service (R109 to R111) -/

theorem State.bulkPick_of_allowance {a : Arbiter} {k : Pick} (h : s.allowancePick o a = some k) :
    s.bulkPick o a = some k := by rw [State.bulkPick, h]

theorem State.bulkPick_of_reload {a : Arbiter} {k : Pick} (h : s.allowancePick o a = none) (hdue : s.reloadDue o a = true)
    (hk : s.allowancePick o a.reload = some k) : s.bulkPick o a = some k := by
  simp only [State.bulkPick, h, hdue, hk, if_true]

theorem State.bulkPick_of_spare_reloaded {a : Arbiter} (h : s.allowancePick o a = none) (hdue : s.reloadDue o a = true)
    (hk : s.allowancePick o a.reload = none) : s.bulkPick o a = s.sparePick o a.reload := by
  simp only [State.bulkPick, h, hdue, hk, if_true]

theorem State.bulkPick_of_spare {a : Arbiter} (h : s.allowancePick o a = none) (hdue : ¬ s.reloadDue o a = true) :
    s.bulkPick o a = s.sparePick o a := by
  rw [State.bulkPick, h]
  exact if_neg hdue

theorem State.nextPick_of_express {k : Pick} (h : s.expressPick o (s.port o).arbiter = some k) :
    s.nextPick o = some k := by rw [State.nextPick, h]

theorem State.nextPick_of_bulk (h : s.expressPick o (s.port o).arbiter = none) :
    s.nextPick o = s.bulkPick o (s.port o).arbiter := by rw [State.nextPick, h]

end

end Sys2Proof.Machine

namespace Sys2Proof.Proofs

open Sys2Proof Sys2Proof.Machine Sys2Proof.Safety

/-- Settles O25: the express phase where it applies; then the scan by allowance, by reloaded allowance, or spare service. -/
theorem pickFollowsThePhases : Obligations.PickFollowsThePhases := by
  intro s o a express eligible reloaded due served spare
  refine ⟨fun hlevel hexpress => ?_, fun hphase => ?_⟩
  · obtain ⟨i, hfirst, hpick⟩ := State.expressPick_of_waits (s := s) (o := o) hlevel hexpress
    exact ⟨i, hfirst, State.nextPick_of_express hpick⟩
  have hbulk : s.nextPick o = s.bulkPick o a := State.nextPick_of_bulk (State.expressPick_eq_none hphase)
  have hdue : s.reloadDue o a = true ↔ due := State.reloadDue_iff a
  refine ⟨fun hallowed => ?_, fun hspent heligible => ⟨fun hd hstaged => ?_, fun hd hstaged => ?_, fun hd => ?_⟩,
    fun hnone => ?_⟩
  · obtain ⟨i, f, hfirst, hoffer, hpick⟩ := State.allowancePick_of_allowed hallowed
    exact ⟨i, f, hfirst, hoffer, hbulk.trans (State.bulkPick_of_allowance hpick)⟩
  · obtain ⟨i, f, hfirst, hoffer, hpick⟩ := State.allowancePick_of_allowed (a := a.reload) hstaged
    exact ⟨i, f, hfirst, hoffer,
      hbulk.trans (State.bulkPick_of_reload (State.allowancePick_eq_none hspent) (hdue.2 hd) hpick)⟩
  · obtain ⟨i, f, hfirst, hoffer, hpick⟩ := State.sparePick_of_eligible a.reload heligible
    exact ⟨i, f, hfirst, hoffer, hbulk.trans ((State.bulkPick_of_spare_reloaded (State.allowancePick_eq_none hspent)
      (hdue.2 hd) (State.allowancePick_eq_none (a := a.reload) hstaged)).trans hpick)⟩
  · obtain ⟨i, f, hfirst, hoffer, hpick⟩ := State.sparePick_of_eligible a heligible
    exact ⟨i, f, hfirst, hoffer, hbulk.trans
      ((State.bulkPick_of_spare (State.allowancePick_eq_none hspent) (mt hdue.1 hd)).trans hpick)⟩
  · have hempty (i : PortId) : ¬ s.eligible o i = true := Bool.eq_false_iff.1 (hnone i)
    have hnodue : ¬ due := fun ⟨i, hi, _⟩ => hempty i hi
    exact hbulk.trans ((State.bulkPick_of_spare (State.allowancePick_eq_none fun i hi => absurd hi (hempty i))
      (mt hdue.1 hnodue)).trans (State.sparePick_eq_none a hnone))

end Sys2Proof.Proofs

/-! # Two events that meet (O60) -/

namespace Sys2Proof.Machine

open Sys2Proof Sys2Proof.Safety

/-! ### An output with no cell in service, in the rest of an event -/

/-- The receiver, the arbiter and the departed count of `y` are those of `x`, and a transmitter without a cell in service stays
as it is in state and service. -/
structure Port.Rests (x y : Port) : Prop where
  rx : y.rx = x.rx
  arbiter : y.arbiter = x.arbiter
  departed : y.counters.get Counter.departed.index = x.counters.get Counter.departed.index
  tx : x.tx.service = none → y.tx.state = x.tx.state ∧ y.tx.service = none

theorem Port.Rests.trans {x y z : Port} (h : x.Rests y) (h' : y.Rests z) : x.Rests z where
  rx := h'.rx.trans h.rx
  arbiter := h'.arbiter.trans h.arbiter
  departed := h'.departed.trans h.departed
  tx hx := by
    obtain ⟨hstate, hservice⟩ := h.tx hx
    obtain ⟨hstate', hservice'⟩ := h'.tx hservice
    exact ⟨hstate'.trans hstate, hservice'⟩

/-- A change of entries, accounts, monitors and administration, and of a congestion update. -/
theorem Port.Rests.of_eq {x y : Port} (hr : y.rx = x.rx) (ha : y.arbiter = x.arbiter) (hc : y.counters = x.counters)
    (hstate : y.tx.state = x.tx.state) (hservice : y.tx.service = x.tx.service) : x.Rests y where
  rx := hr
  arbiter := ha
  departed := by rw [hc]
  tx hx := ⟨hstate, hservice.trans hx⟩

theorem Port.Rests.refl (x : Port) : x.Rests x := .of_eq rfl rfl rfl rfl rfl

theorem Event.Ports.rests_trans {c d e : Event} (h : c.Ports Port.Rests d) (h' : d.Ports Port.Rests e) :
    c.Ports Port.Rests e := fun q => (h q).trans (h' q)

/-- A congestion update owed or not is no part of a transmitter's state and service (R142). -/
theorem owed_state_service (b : Bool) (x : Port) :
    (owed b x).state = x.tx.state ∧ (owed b x).service = x.tx.service := by
  unfold owed
  split <;> exact ⟨rfl, rfl⟩

theorem Event.setWaiting_rests (c : Event) (o : PortId) (n : Nat) : c.Ports Port.Rests (c.setWaiting o n) := by
  intro q
  show Port.Rests _ ((c.setWaiting o n).toState.port q)
  rw [(c.setWaiting_eq o n).1]
  simp only [waited, State.port, Table.get_ofFn]
  obtain ⟨hstate, hservice⟩ := owed_state_service (flagAt c.toState o n != (c.ports.get o).monitor.flag) (c.ports.get q)
  exact .of_eq rfl rfl rfl hstate hservice

theorem Event.leaves_rests (c : Event) (o : PortId) (src : Source) (n : Nat) :
    c.Ports Port.Rests (c.leaves o src n) := by
  have left : c.Ports Port.Rests (c.modPort src.input (Port.depart o src)) := by
    refine Event.modPort_ports .refl c _ _ ?_
    cases src <;> exact .of_eq rfl rfl rfl rfl rfl
  refine left.rests_trans fun q => ?_
  unfold Event.leaves
  rw [Event.free_port]
  split
  · rw [Port.freePlaces_eq]
    exact .of_eq rfl rfl rfl rfl rfl
  · exact .refl _

theorem Event.meterDeparture_rests (c : Event) (o : PortId) (d : Departed) :
    c.Ports Port.Rests (c.meterDeparture o d) := by
  intro q
  have hport : (c.meterDeparture o d).port q = c.port q :=
    (congrArg (State.port · q) (c.meterDeparture_raises o d).1 :)
  rw [hport]
  exact .refl _

theorem Transmitter.dropCell_of_none {t : Transmitter} (h : t.service = none) : t.dropCell = t := by
  simp [Transmitter.dropCell, h]

theorem Port.afterLoss_rests (x : Port) (o : PortId) : x.Rests (x.afterLoss o) := .of_eq rfl rfl rfl rfl rfl

/-- A counter other than the departed one rises. -/
theorem Port.count_rests (x : Port) {k : Counter} (hk : Counter.departed.index ≠ k.index) (n : Nat) :
    x.Rests (x.count k n) where
  rx := rfl
  arbiter := rfl
  departed := Table.get_put_ne _ _ hk
  tx h := ⟨rfl, h⟩

theorem Port.dropCell_rests (x : Port) : x.Rests { x with tx := x.tx.dropCell } where
  rx := rfl
  arbiter := rfl
  departed := rfl
  tx h := by
    dsimp only
    rw [Transmitter.dropCell_of_none h]
    exact ⟨rfl, h⟩

/-- A port as some output becomes unavailable (R61, R95, R126). -/
theorem State.closedPort_rests (s : State) (o q : PortId) : (s.port q).Rests (s.closedPort o q) := by
  unfold State.closedPort
  generalize s.port q = x
  have hlost := x.afterLoss_rests o
  split
  · exact (hlost.trans (Port.count_rests _ (by decide) _)).trans (Port.dropCell_rests _)
  · exact hlost

theorem Event.closeOutput_rests (c : Event) (o : PortId) : c.Ports Port.Rests (c.closeOutput o) := by
  intro q
  rw [Event.closeOutput_port]
  obtain ⟨hstate, hservice⟩ := owed_state_service
    (flagAt c.toState o ((c.port o).monitor.waiting - c.owed o) != (c.port o).monitor.flag) (c.closedPort o q)
  exact (State.closedPort_rests c.toState o q).trans (.of_eq rfl rfl rfl hstate hservice)

theorem Event.endDrain_rests (c : Event) (i : PortId) : c.Ports Port.Rests (c.endDrain i) :=
  (Event.modPort_ports .refl c i _ (.of_eq rfl rfl rfl rfl rfl) :
    c.Ports Port.Rests (c.modPort i fun x => { x.withdraw with admin := .disabled }))

theorem Event.drainChecks_rests (n : Nat) (l : List PortId) (c : Event) : c.Ports Port.Rests (c.drainChecks n l) :=
  Event.drainChecks_induct (fun d => c.Ports Port.Rests d)
    (fun d i h _ => (h.rests_trans (d.endDrain_rests i)).rests_trans (Event.closeOutput_rests _ i)) n l c
    fun _ => .refl _

theorem Event.finish_rests (c : Event) (q : PortId) : (c.port q).Rests (c.finish.port q) := by
  rw [Event.finish_port]
  exact .of_eq rfl rfl rfl rfl rfl

/-! ### An output that becomes unavailable (R61, R95, R126, R157) -/

/-- Output `x`, owed `n` cells and copies, has become unavailable: they are counted FLUSHED, and its transmitter has dropped
its cell in service. -/
structure Port.Flushed (n : Nat) (x y : Port) : Prop where
  rx : y.rx = x.rx
  arbiter : y.arbiter = x.arbiter
  departed : y.counters.get Counter.departed.index = x.counters.get Counter.departed.index
  flushed : y.counters.get Counter.flushed.index = min (x.counters.get Counter.flushed.index + n) 4294967295
  state : y.tx.state = x.tx.dropCell.state
  service : y.tx.service = none

/-- Where no input has anything for an output, it is owed nothing. -/
theorem State.owed_of_clearOf {s : State} {o : PortId} (h : ∀ i, (s.port i).ClearOf o) : s.owed o = 0 := by
  have hqueue (c : Class) (i : PortId) : (s.port i).queue o c = [] := by
    obtain ⟨hb, he, -⟩ := h i
    cases c
    · exact hb
    · exact he
  have hcopies (i : PortId) : ((s.port i).copies.countP fun e => e.remaining.has o) = 0 :=
    List.countP_eq_zero.2 fun e he => by simp [(h i).2.2 e he]
  simp [State.owed, State.cellsToward, State.copiesToward, hqueue, hcopies]

/-- What an output that is closed counts FLUSHED (R61, R95). -/
theorem Event.closeOutput_flushed (c : Event) (o q : PortId) :
    ((c.closeOutput o).port q).counters.get Counter.flushed.index =
      if q = o then min ((c.port q).counters.get Counter.flushed.index + c.owed o) 4294967295
      else (c.port q).counters.get Counter.flushed.index := by
  rw [Event.closeOutput_port]
  show (c.closedPort o q).counters.get _ = _
  unfold State.closedPort
  split
  · exact Table.get_put_self _ _ _
  · rfl

/-- A drain that completes finds nothing for an output that was flushed before it. -/
theorem Event.outputUnavailable_flushed (c : Event) (o : PortId) :
    ((c.outputUnavailable o).port o).counters.get Counter.flushed.index =
      min ((c.port o).counters.get Counter.flushed.index + c.owed o) 4294967295 := by
  have all := Event.outputUnavailable_induct (fun d => (∀ i, (d.port i).ClearOf o) ∧
    (d.port o).counters.get Counter.flushed.index =
      min ((c.port o).counters.get Counter.flushed.index + c.owed o) 4294967295) o
    (fun d j ⟨hclear, hcount⟩ _ => ?_) c ⟨fun i => ?_, ?_⟩
  · exact all.2
  · have hclear' (i : PortId) : ((d.endDrain j).port i).ClearOf o := (d.endDrain_frame j i).toEntries.clearOf (hclear i)
    have hcount' : ((d.endDrain j).port o).counters = (d.port o).counters := by
      unfold Event.endDrain
      rw [Event.raise_port, Event.modPort_port]
      split <;> rfl
    refine ⟨fun i => (Event.closeOutput_calm _ j i).toEntries.clearOf (hclear' i), ?_⟩
    rw [Event.closeOutput_flushed, hcount', hcount]
    split
    · next hj =>
      subst hj
      rw [State.owed_of_clearOf hclear']
      omega
    · rfl
  · obtain ⟨hq, hc⟩ := c.closeOutput_clears o i
    exact ⟨hq .bulk, hq .express, hc⟩
  · rw [Event.closeOutput_flushed, if_pos rfl]

theorem Event.outputUnavailable_self (c : Event) (o : PortId) :
    (c.port o).Flushed (c.owed o) ((c.outputUnavailable o).port o) := by
  have hclose := c.closeOutput_rests o o
  have hservice := c.closeOutput_service o
  have hstate : ((c.closeOutput o).port o).tx.state = (c.port o).tx.dropCell.state := by
    rw [Event.closeOutput_port]
    refine (owed_state_service _ _).1.trans ?_
    unfold State.closedPort
    rw [if_pos rfl]
  have hchecks : ((c.closeOutput o).port o).Rests ((c.outputUnavailable o).port o) :=
    Event.drainChecks_rests _ _ _ o
  obtain ⟨hst, hsv⟩ := hchecks.tx hservice
  exact ⟨hchecks.rx.trans hclose.rx, hchecks.arbiter.trans hclose.arbiter, hchecks.departed.trans hclose.departed,
    c.outputUnavailable_flushed o, hst.trans hstate, hsv⟩

/-! ### DISABLE and the loss of lock at an output (R20, R126, R161) -/

/-- Output `x` has been closed by a cause of unavailability: its arbiter and its departed count are kept, and its transmitter
has no cell in service. -/
structure Port.Shuts (after : TxState) (x y : Port) : Prop where
  arbiter : y.arbiter = x.arbiter
  departed : y.counters.get Counter.departed.index = x.counters.get Counter.departed.index
  available : y.available = false
  state : y.tx.state = after
  service : y.tx.service = none

/-- The end of an event leaves a closed output as it is. -/
theorem Port.Shuts.finish {after : TxState} {x : Port} {c : Event} {o : PortId} (h : x.Shuts after (c.port o)) :
    x.Shuts after (c.finish.port o) := by
  obtain ⟨harbiter, hdeparted, havailable, hstate, hservice⟩ := h
  rw [Event.finish_port]
  exact ⟨harbiter, hdeparted, havailable, hstate, hservice⟩

theorem Event.finish_counters (c : Event) (o : PortId) : (c.finish.port o).counters = (c.port o).counters := by
  rw [Event.finish_port]

/-- A DISABLE of port `o` from the holder, or the loss of its lock, with the transmitter state it leaves. -/
def ShutsOutput (o : PortId) (sp : SupPort) (c : Instr) (after : TxState) : Prop :=
  c = .portAdminDisable sp [portByte o, 2#8] ∧ after = .idle ∨ (∃ cut, c = .lockLost o cut) ∧ after = .down

section

variable {s : State} {o : PortId}

theorem Event.disable_of_open {c : Event} (h : (c.port o).admin ≠ .disabled) :
    c.disable o = (c.modPort o fun x => { x.withdraw with admin := .disabled }).outputUnavailable o := by
  unfold Event.disable
  split
  · rfl
  · rfl
  · next hd => exact absurd hd h

theorem Event.disable_of_disabled {c : Event} (h : (c.port o).admin = .disabled) : c.disable o = c := by
  simp only [Event.disable, h]

/-- DISABLE of an output that is open flushes it and leaves it DISABLED (R161). -/
theorem Event.disable_flushes (h : (s.port o).admin ≠ .disabled) :
    (s.port o).Flushed (s.owed o) (((Event.start s).disable o).port o) ∧
      (((Event.start s).disable o).port o).admin = .disabled := by
  rw [Event.disable_of_open h]
  have hself := Event.outputUnavailable_self
    ((Event.start s).modPort o fun x => { x.withdraw with admin := .disabled }) o
  rw [Event.modPort_port_self] at hself
  have howed : ((Event.start s).modPort o fun x => { x.withdraw with admin := .disabled }).owed o = s.owed o :=
    (Event.agreeBut_modPort (c := Event.start s) (p := o) (f := fun x => { x.withdraw with admin := .disabled })
      ⟨rfl, rfl, rfl, rfl, rfl⟩).owed o
  rw [howed] at hself
  refine ⟨⟨hself.rx, hself.arbiter, hself.departed, hself.flushed, hself.state, hself.service⟩, ?_⟩
  refine Event.drainChecks_keeps_disabled _ _ _ _ ?_
  rw [Event.closeOutput_admin, Event.modPort_port_self]

theorem Port.available_of_disabled {x : Port} (h : x.admin = .disabled) : x.available = false := by
  simp [Port.available, h]

theorem Port.available_of_link {x : Port} (h : x.rx.link ≠ .up) : x.available = false := by
  simp [Port.available, h]

/-- DISABLE from the holder (R158, R161). -/
theorem exec_disable_shuts {sp : SupPort} (hs : s.master.holder = some sp)
    (hidle : (s.port o).tx.dropCell.state = .idle) (hnone : (s.port o).admin = .disabled → (s.port o).tx.service = none) :
    ∃ u, exec (.portAdminDisable sp [portByte o, 2#8]) s = .next u ∧ (s.port o).Shuts .idle (u.port o) ∧
      ((s.port o).admin ≠ .disabled → (u.port o).counters.get Counter.flushed.index =
        min ((s.port o).counters.get Counter.flushed.index + s.owed o) 4294967295) := by
  have hexec : exec (.portAdminDisable sp [portByte o, 2#8]) s =
      .next (((Event.start s).disable o).finish.respond sp 0x20#8 .ok
        (adminData s ((Event.start s).disable o) o false false)) := by
    show Host.Outcome.next (s.answered sp 0x20#8 _) = _
    rw [answered_portCommand hs, show actionIs .disabled 2#8 = some () from rfl, named_some]
    rfl
  refine ⟨_, hexec, ?_⟩
  rw [State.respond_port]
  by_cases hd : (s.port o).admin = .disabled
  · rw [Event.disable_of_disabled hd]
    rw [Transmitter.dropCell_of_none (hnone hd)] at hidle
    have hshuts : (s.port o).Shuts .idle ((Event.start s).port o) :=
      ⟨rfl, rfl, Port.available_of_disabled hd, hidle, hnone hd⟩
    exact ⟨hshuts.finish, fun h => absurd hd h⟩
  · obtain ⟨hflush, hadmin⟩ := Event.disable_flushes hd
    have hshuts : (s.port o).Shuts .idle (((Event.start s).disable o).port o) :=
      ⟨hflush.arbiter, hflush.departed, Port.available_of_disabled hadmin, hflush.state.trans hidle, hflush.service⟩
    refine ⟨hshuts.finish, fun _ => ?_⟩
    rw [Event.finish_counters, hflush.flushed]

/-- A port that leaves UP is flushed as an output, whatever has been counted before (R20). -/
theorem Event.Counts.leaveUp_flushes {c : Event} {k : Table Nat 15} (h : c.Counts s o k) :
    ({ s.port o with counters := k }.leaveUp).Flushed (s.owed o) ((c.leaveUp o).port o) := by
  have hself := Event.outputUnavailable_self (c.downed o) o
  rwa [(h.agree.trans (c.downed_agreeBut o)).owed, Event.downed_port, if_pos rfl, h.port] at hself

/-- LOCK_LOST in UP: the link leaves UP, a cell cut short having been counted LINK_LOSS (R12, R18, R20). -/
theorem execLockLost_of_up {cut : CutShort} (hk : (s.port o).rx.locked = true) (hl : (s.port o).rx.link = .up) :
    ∃ (c : Event) (k : Table Nat 15), execLockLost o cut s = .next (c.leaveUp o).finish ∧ c.Counts s o k ∧
      ∀ i, i ≠ Counter.linkLoss.index → k.get i = (s.port o).counters.get i := by
  have down {c : Event} {k : Table Nat 15} (hc : c.Counts s o k) : c.enterDown o = c.leaveUp o := by
    unfold Event.enterDown
    rw [if_pos]
    rw [hc.port]
    simpa [Port.isUp] using hl
  unfold execLockLost
  rw [if_pos ⟨hk, by simp [hl]⟩]
  cases cut
  case cell =>
    have hc := Event.counts_count s o .linkLoss
    refine ⟨_, _, ?_, hc, fun i hi => Table.get_put_ne _ _ hi⟩
    simp only [cutCounter, hl, if_true, down hc]
  all_goals
    have hc := Event.counts_start s o
    refine ⟨_, _, ?_, hc, fun _ _ => rfl⟩
    simp only [cutCounter, down hc]

theorem Port.leaveUp_rx (x : Port) : x.leaveUp.rx = x.rx.inDown := rfl

theorem Port.leaveUp_arbiter (x : Port) : x.leaveUp.arbiter = x.arbiter := rfl

theorem Port.leaveUp_counters (x : Port) : x.leaveUp.counters = x.counters := rfl

theorem Port.leaveUp_tx (x : Port) : x.leaveUp.tx = x.tx.linkDown := rfl

theorem exec_lockLost_shuts {cut : CutShort} (hk : (s.port o).rx.locked = true) (hl : (s.port o).rx.link = .up) :
    ∃ u, exec (.lockLost o cut) s = .next u ∧ (s.port o).Shuts .down (u.port o) ∧
      (u.port o).counters.get Counter.flushed.index =
        min ((s.port o).counters.get Counter.flushed.index + s.owed o) 4294967295 := by
  obtain ⟨c, k, hexec, hcounts, hk⟩ := execLockLost_of_up (cut := cut) hk hl
  obtain ⟨hrx, harbiter, hdeparted, hflushed, hstate, hservice⟩ := hcounts.leaveUp_flushes
  rw [Port.leaveUp_rx] at hrx
  rw [Port.leaveUp_arbiter] at harbiter
  rw [Port.leaveUp_counters] at hdeparted hflushed
  rw [Port.leaveUp_tx, Transmitter.dropCell_linkDown] at hstate
  have hdown : ((c.leaveUp o).port o).rx.link ≠ .up := by
    rw [hrx]
    exact nofun
  have hshuts : (s.port o).Shuts .down ((c.leaveUp o).port o) :=
    ⟨harbiter, hdeparted.trans (hk _ (by decide)), Port.available_of_link hdown, hstate, hservice⟩
  refine ⟨_, hexec, hshuts.finish, ?_⟩
  rw [Event.finish_counters, hflushed, hk _ (by decide)]

/-- Either cause closes the output, and drops what it holds (R20, R126, R161). -/
theorem ShutsOutput.shuts {sp : SupPort} {c : Instr} {after : TxState} (hc : ShutsOutput o sp c after)
    (hs : s.master.holder = some sp) (hk : (s.port o).rx.locked = true) (hl : (s.port o).rx.link = .up)
    (hidle : (s.port o).tx.dropCell.state = .idle) (hnone : (s.port o).admin = .disabled → (s.port o).tx.service = none) :
    ∃ u, exec c s = .next u ∧ (s.port o).Shuts after (u.port o) ∧
      ((s.port o).admin ≠ .disabled → (u.port o).counters.get Counter.flushed.index =
        min ((s.port o).counters.get Counter.flushed.index + s.owed o) 4294967295) := by
  rcases hc with ⟨rfl, rfl⟩ | ⟨⟨cut, rfl⟩, rfl⟩
  · exact exec_disable_shuts hs hidle hnone
  · obtain ⟨u, hexec, hshuts, hflushed⟩ := exec_lockLost_shuts (cut := cut) hk hl
    exact ⟨u, hexec, hshuts, fun _ => hflushed⟩

end

/-! ### A completion and a cause of unavailability that meet (R114) -/

/-- An output once its cell has departed, but for its next pick: counted, refilled, its transmitter IDLE (R112, R125). -/
theorem Event.complete_self (c : Event) (o : PortId) (src : Source) : (c.port o).sent.Rests ((c.complete o src).port o) := by
  rw [Event.complete_parts]
  have hsent : (c.modPort o Port.sent).port o = (c.port o).sent := Event.modPort_port_self _ _ _
  rw [← hsent]
  exact ((((Event.leaves_rests _ _ _ _).rests_trans (Event.setWaiting_rests _ _ _)).rests_trans
    (Event.meterDeparture_rests _ _ _)).rests_trans (Event.drainChecks_rests _ _ _)) o

/-- An output that is not available picks nothing (R102). -/
theorem Event.pickCheck_of_unavailable {c : Event} {o : PortId} (h : (c.port o).available = false) : c.pickCheck o = c := by
  unfold Event.pickCheck
  rw [if_neg (by simp [h])]

/-- A completion taken before a cause of unavailability makes no pick, whether or not its own drain checks have closed the output
(R114). -/
theorem execTogether_completion {s u : State} {o : PortId} {c : Instr} {src : Source}
    (hsrc : (s.port o).tx.sendingCell = some src)
    (hexec : exec c ((Event.start s).complete o src).finish = .next u) (hu : (u.port o).available = false) :
    execTogether (.departure o) c s = .next u := by
  unfold execTogether
  dsimp only
  cases ha : (((Event.start s).complete o src).finish.port o).available
  · have hnone : execCompletionThen o c s = none := by
      rw [Option.eq_none_iff_forall_ne_some]
      intro v hv
      obtain ⟨src', hsrc', -, ht, -⟩ := execCompletionThen_eq_some.1 hv
      cases hsrc.symm.trans hsrc'
      rw [ha] at ht
      cases ht
    have hpick : (Event.start s).depart o src = (Event.start s).complete o src :=
      Event.pickCheck_of_unavailable (by rw [Event.finish_port] at ha; exact ha)
    have hdepart : exec (.departure o) s = .next ((Event.start s).complete o src).finish := by
      rw [← hpick]
      show execDeparture o s = _
      unfold execDeparture
      rw [hsrc]
    rw [hnone]
    simp only [execInTurn, hdepart, hexec]
  · rw [execCompletionThen_eq_some.2 ⟨src, hsrc, hexec, ha, hu⟩]

/-- Two events that are no completion and no expiry after it are taken in turn (R182). -/
theorem execTogether_next {first second : Instr} {s t : State} {r : Host.Outcome State Fault Refusal}
    (hd : ∀ o, first ≠ .departure o) (he : second ≠ .mastershipTimerExpiry) (hfirst : exec first s = .next t)
    (hsecond : exec second t = r) : execTogether first second s = r := by
  unfold execTogether
  split
  · next o => exact absurd rfl (hd o)
  · rw [if_neg fun h => he h.1, execInTurn, hfirst]
    exact hsecond

/-- An expiry does not happen where the first event has restarted the timer (R182). -/
theorem execTogether_restart {first : Instr} {s : State} {r : Host.Outcome State Fault Refusal}
    (hd : ∀ o, first ≠ .departure o) (hr : s.restartsTimer first = true) (hfirst : exec first s = r) :
    execTogether first .mastershipTimerExpiry s = r := by
  unfold execTogether
  split
  · next o => exact absurd rfl (hd o)
  · exact (if_pos ⟨rfl, hr⟩).trans hfirst

/-- A completion that comes second to a cause of unavailability finds no cell to send (R114). -/
theorem execTogether_before_completion {s u : State} {o : PortId} {c : Instr} (hc : ∀ q, c ≠ .departure q)
    (hexec : exec c s = .next u) (hu : (u.port o).tx.service = none) : execTogether c (.departure o) s = .next u := by
  have hnone : (u.port o).tx.sendingCell = none := by
    unfold Transmitter.sendingCell
    rw [hu]
    split
    · next h => cases h
    · rfl
  refine execTogether_next hc nofun hexec ?_
  show execDeparture o u = _
  unfold execDeparture
  rw [hnone]

theorem ShutsOutput.ne_departure {o : PortId} {sp : SupPort} {c : Instr} {after : TxState}
    (h : ShutsOutput o sp c after) (q : PortId) : c ≠ .departure q := by
  rcases h with ⟨rfl, -⟩ | ⟨⟨cut, rfl⟩, -⟩ <;> exact nofun

theorem Event.SharedSame.master {c d : Event} (h : c.SharedSame d) : d.master = c.master := by
  obtain ⟨-, -, hmaster, -⟩ := h
  exact hmaster

/-- A completion leaves the mastership unit (R125). -/
theorem Event.complete_master (c : Event) (o : PortId) (src : Source) : (c.complete o src).master = c.master := by
  have checks (e : Event) (l : List PortId) : (e.drainChecks 24 l).master = e.master :=
    (Event.drainChecks_shared 24 l e).master
  have metered (e : Event) (d : Departed) : (e.meterDeparture o d).master = e.master :=
    (congrArg State.master (e.meterDeparture_raises o d).1 :)
  have waits (e : Event) (n : Nat) : (e.setWaiting o n).master = e.master := (e.setWaiting_shared o n).master
  have left (e : Event) (n : Nat) : (e.leaves o src n).master = e.master :=
    ((e.modPort_shared _ _).trans (Event.free_shared _ _ _ _)).master
  rw [Event.complete_parts, checks, metered, waits, left, Event.modPort_master]

/-- Row 3 of R114, in the words of the statement: a completion on `o` and a cause of unavailability of `o`, in each order. -/
theorem completion_meets {s : State} {o : PortId} {sp : SupPort} {c : Instr} {v : Service} {after : TxState}
    (hstate : (s.port o).tx.state = .sending) (hv : (s.port o).tx.service = some v) (hstarted : v.started = true)
    (hk : (s.port o).rx.locked = true) (hl : (s.port o).rx.link = .up) (ha : (s.port o).admin ≠ .disabled)
    (hs : s.master.holder = some sp) (hc : ShutsOutput o sp c after) :
    (∃ t, execTogether (.departure o) c s = .next t ∧ (s.port o).sent.Shuts after (t.port o)) ∧
    ∃ t, execTogether c (.departure o) s = .next t ∧ (s.port o).Shuts after (t.port o) ∧
      (t.port o).counters.get Counter.flushed.index =
        min ((s.port o).counters.get Counter.flushed.index + s.owed o) 4294967295 := by
  constructor
  · have hsrc : (s.port o).tx.sendingCell = some v.src := by simp [Transmitter.sendingCell, hstate, hv, hstarted]
    obtain ⟨hrx, harbiter, hdeparted, htx⟩ := (Event.complete_self (Event.start s) o v.src).trans
      (Event.finish_rests _ o)
    obtain ⟨hidle, hnone⟩ := htx rfl
    have hmaster : ((Event.start s).complete o v.src).finish.master.holder = some sp := by
      rw [Event.finish_master, Event.complete_master]
      exact hs
    obtain ⟨u, hexec, hshuts, -⟩ := hc.shuts hmaster (by rw [hrx]; exact hk) (by rw [hrx]; exact hl)
      (by rw [Transmitter.dropCell_of_none hnone]; exact hidle) fun _ => hnone
    exact ⟨u, execTogether_completion hsrc hexec hshuts.available, hshuts.arbiter.trans harbiter,
      hshuts.departed.trans hdeparted, hshuts.available, hshuts.state, hshuts.service⟩
  · have hdrop : (s.port o).tx.dropCell.state = .idle := by simp [Transmitter.dropCell, hv, hstate]
    obtain ⟨u, hexec, hshuts, hflushed⟩ := hc.shuts hs hk hl hdrop fun h => absurd h ha
    exact ⟨u, execTogether_before_completion hc.ne_departure hexec hshuts.service, hshuts, hflushed ha⟩

/-! ### Events at the mastership unit (R177 to R181) -/

section

variable {s : State} {sp : SupPort}

theorem exec_claim_granted (h : s.master.grants sp = true) :
    exec (.claim sp []) s =
      .next ((notify { s with master := s.master.grant sp } [.change]).respond sp 0x10#8 .ok (.claim true)) := by
  show Host.Outcome.next (s.answered sp 0x10#8 (if s.master.grants sp then _ else _)) = _
  rw [if_pos h, State.answered_done, Event.finish_of_freed_nil _ rfl]
  rfl

theorem exec_claim_refused (h : ¬ s.master.grants sp = true) (hs : s.master.holder ≠ some sp) :
    exec (.claim sp []) s = .next (s.respond sp 0x10#8 .alreadyHeld .empty) := by
  show Host.Outcome.next (s.answered sp 0x10#8 (if s.master.grants sp then _ else _)) = _
  rw [if_neg h, if_neg hs, State.answered_deny]

theorem exec_relinquish_held (hs : s.master.holder = some sp) :
    exec (.relinquish sp []) s =
      .next ((notify { s with master := s.master.release } [.change]).respond sp 0x11#8 .ok .empty) := by
  show Host.Outcome.next (s.answered sp 0x11#8 (s.holderOnly sp _)) = _
  rw [State.holderOnly_holder s sp _ hs, State.answered_done, Event.finish_of_freed_nil _ rfl]
  rfl

theorem exec_relinquish_other (hs : s.master.holder ≠ some sp) :
    exec (.relinquish sp []) s = .next (s.respond sp 0x11#8 .notMaster .empty) := by
  show Host.Outcome.next (s.answered sp 0x11#8 (s.holderOnly sp _)) = _
  rw [State.holderOnly_other s sp _ hs, State.answered_deny]

/-- The token B restarts the timer where it is expected and the pointer armed (R179). -/
def Mastership.Restarts (m : Mastership) : Prop := m.pointer = .expectB ∧ m.armed = true

/-- A restarting B leaves the holder as a grant would (R177, R179). -/
theorem Mastership.token_restart {m : Mastership} (hs : m.holder = some sp) (hr : m.Restarts) :
    m.token .expectB = (m.grant sp, true) := by
  obtain ⟨hp, ha⟩ := hr
  simp [Mastership.token, Mastership.grant, hp, ha, hs]

theorem exec_restart (hs : s.master.holder = some sp) (hr : s.master.Restarts) :
    exec (.keepalive sp [1#8]) s =
      .next (({ s with master := s.master.grant sp } : State).respond sp 0x12#8 .ok (.keepalive true .expectA)) := by
  show Host.Outcome.next (s.answered sp 0x12#8 (s.holderOnly sp (named 1 (some TokenPtr.expectB) _))) = _
  rw [State.holderOnly_holder s sp _ hs, named_some, Mastership.token_restart hs hr]
  dsimp only
  rw [State.answered_done, Event.finish_of_quiet _ rfl rfl]
  rfl

theorem exec_keepalive_other (hs : s.master.holder ≠ some sp) (t : Byte) :
    exec (.keepalive sp [t]) s = .next (s.respond sp 0x12#8 .notMaster .empty) := by
  show Host.Outcome.next (s.answered sp 0x12#8 (s.holderOnly sp _)) = _
  rw [State.holderOnly_other s sp _ hs, State.answered_deny]

theorem restartsTimer_restart (hs : s.master.holder = some sp) (hr : s.master.Restarts) :
    s.restartsTimer (.keepalive sp [1#8]) = true := by
  show (s.master.holder == some sp && (some TokenPtr.expectB).any fun t => (s.master.token t).2) = true
  simp [hs, Mastership.token_restart hs hr]

theorem exec_expiry_healthy (ht : s.master.timer ≠ none) (hh : s.master.health = .healthy) :
    exec .mastershipTimerExpiry s = .next (notify
      { s with master := { s.master with health := .alerted, timer := some s.master.period } } [.alert]) := by
  show execMastershipTimerExpiry s = _
  unfold execMastershipTimerExpiry
  simp only [if_pos (Option.isSome_iff_ne_none.2 ht), hh]
  exact congrArg Host.Outcome.next (Event.finish_of_freed_nil _ rfl)

theorem exec_expiry_alerted (ht : s.master.timer ≠ none) (hh : s.master.health = .alerted) :
    exec .mastershipTimerExpiry s = .next (notify { s with master := s.master.release } [.change]) := by
  show execMastershipTimerExpiry s = _
  unfold execMastershipTimerExpiry
  simp only [if_pos (Option.isSome_iff_ne_none.2 ht), hh]
  exact congrArg Host.Outcome.next (Event.finish_of_freed_nil _ rfl)

theorem periodArg_of_mem {b : Byte} {p : Period}
    (h : (b, p) ∈ [(0#8, Period.ms50), (1#8, .ms200), (2#8, .s1), (3#8, .s4)]) : periodArg b = some p := by
  simp only [List.mem_cons, Prod.mk.injEq, List.not_mem_nil, or_false] at h
  rcases h with ⟨rfl, rfl⟩ | ⟨rfl, rfl⟩ | ⟨rfl, rfl⟩ | ⟨rfl, rfl⟩ <;> rfl

theorem exec_timerPeriod (hs : s.master.holder = some sp) {code : Byte} {p : Period} (hp : periodArg code = some p) :
    exec (.timerPeriod sp [code]) s =
      .next (({ s with master := { s.master with period := p } } : State).respond sp 0x60#8 .ok
        (.timerPeriod p s.master.timer)) := by
  show Host.Outcome.next (s.answered sp 0x60#8 (s.holderOnly sp (named 1 (periodArg code) _))) = _
  rw [State.holderOnly_holder s sp _ hs, hp, named_some, State.answered_done, Event.finish_of_quiet _ rfl rfl]
  rfl

theorem Mastership.grants_none {m : Mastership} (h : m.holder = none) : m.grants sp = true := by
  simp [Mastership.grants, h]

/-- A port other than the holder is granted mastership exactly where the holder is ALERTED (R177). -/
theorem Mastership.grants_other {m : Mastership} {other : SupPort} (h : m.holder = some sp) (hne : other ≠ sp) :
    m.grants other = true ↔ m.health = .alerted := by
  simp [Mastership.grants, h, hne.symm]

end

end Sys2Proof.Machine

namespace Sys2Proof.Proofs

open Sys2Proof Sys2Proof.Machine Sys2Proof.Safety

/-- Settles O60: at the arbiter a completion that comes first departs its cell without a pick, and one that comes second finds
no cell; at the mastership unit each order is two events in turn, but that an expiry does not follow a restart. -/
theorem eventsThatMeet : Obligations.EventsThatMeet := by
  refine ⟨?_, ?_⟩
  · intro s o sp c v after x hstate hv hstarted hk hl ha hs hc
    obtain ⟨⟨t, ht, hfirst⟩, u, hu, hsecond, hflushed⟩ := completion_meets hstate hv hstarted hk hl ha hs hc
    exact ⟨⟨t, ht, hfirst.arbiter, hfirst.departed.trans (Table.get_put_self _ _ _), hfirst.available, hfirst.state,
      hfirst.service⟩, u, hu, hsecond.arbiter, hsecond.departed, hflushed, hsecond.available, hsecond.state,
      hsecond.service⟩
  · intro s sp other hne m b claim expiry held gone restarts answered claims
    have hother {t : State} (h : t.master.holder = some sp) : t.master.holder ≠ some other := by
      rw [h]
      exact fun e => hne (Option.some.inj e).symm
    have hself {t : State} (h : t.master.holder = some other) : t.master.holder ≠ some sp := by
      rw [h]
      exact fun e => hne (Option.some.inj e)
    refine ⟨fun hs => ⟨fun hr ht => ⟨?_, fun hh => ?_, fun hh => ?_⟩, fun hr hh => ⟨?_, ?_⟩, ?_, fun hh => ?_,
      fun hh => ?_, fun hh ht => ⟨?_, ?_⟩, fun hr code period hcode => ⟨?_, ?_⟩⟩, fun hs => ?_⟩
    · exact execTogether_restart nofun (restartsTimer_restart hs hr) (exec_restart hs hr)
    · refine execTogether_next nofun nofun (exec_expiry_healthy ht hh) ?_
      exact exec_restart hs hr
    · refine execTogether_next nofun nofun (exec_expiry_alerted ht hh) ?_
      exact exec_keepalive_other (show (none : Option SupPort) ≠ some sp from nofun) _
    · refine execTogether_next nofun nofun (exec_restart hs hr) ?_
      exact exec_claim_refused (fun h => nomatch (Mastership.grants_other (m := s.master.grant sp) rfl hne).1 h)
        (hother rfl)
    · refine execTogether_next nofun nofun (exec_claim_granted ((Mastership.grants_other hs hne).2 hh)) ?_
      exact exec_keepalive_other (hself rfl) _
    · refine execTogether_next nofun nofun (exec_relinquish_held hs) ?_
      exact exec_claim_granted (Mastership.grants_none rfl)
    · have hrefused := exec_claim_refused (sp := other) (s := s)
        (fun h => nomatch hh.symm.trans ((Mastership.grants_other hs hne).1 h)) (hother hs)
      refine execTogether_next nofun nofun hrefused ?_
      exact exec_relinquish_held hs
    · refine execTogether_next nofun nofun (exec_claim_granted ((Mastership.grants_other hs hne).2 hh)) ?_
      exact exec_relinquish_other (hself rfl)
    · have hgranted := (Mastership.grants_other hs hne).2 hh
      have hrestarts : s.restartsTimer claim = true := by
        show (s.master.grants other && s.master.holder.isSome) = true
        rw [hgranted, hs]
        rfl
      exact execTogether_restart nofun hrestarts (exec_claim_granted hgranted)
    · refine execTogether_next nofun nofun (exec_expiry_alerted ht hh) ?_
      exact exec_claim_granted (Mastership.grants_none rfl)
    · refine execTogether_next nofun nofun (exec_timerPeriod hs (periodArg_of_mem hcode)) ?_
      exact exec_restart hs hr
    · refine execTogether_next nofun nofun (exec_restart hs hr) ?_
      exact exec_timerPeriod rfl (periodArg_of_mem hcode)
    · refine execTogether_next nofun nofun (exec_claim_granted (Mastership.grants_none hs)) ?_
      exact exec_claim_refused (fun h => nomatch (Mastership.grants_other (m := s.master.grant sp) rfl hne).1 h)
        (hother rfl)

end Sys2Proof.Proofs

/-! # The settings of an output (O26) -/

namespace Sys2Proof.Machine

open Sys2Proof Sys2Proof.Safety

/-- The byte at a place of a row of argument bytes is that of the row (R169). -/
theorem byteAt_toList (ws : Table Byte 24) (i : PortId) : byteAt ws.toList i.val = ws.get i := by
  simp [byteAt, Table.get]

theorem holdLimitArg_of_mem {b : Byte} {l : HoldLimit}
    (h : (b, l) ∈ [(0#8, HoldLimit.off), (1#8, .ms1), (2#8, .ms8), (3#8, .ms64)]) : holdLimitArg b = some l := by
  simp only [List.mem_cons, Prod.mk.injEq, List.not_mem_nil, or_false] at h
  rcases h with ⟨rfl, rfl⟩ | ⟨rfl, rfl⟩ | ⟨rfl, rfl⟩ | ⟨rfl, rfl⟩ <;> rfl

/-- A level above a cap is brought down to it, any other is kept (R115). -/
theorem min_eq_ite_cap (level cap : Nat) : min level cap = if cap < level then cap else level := by
  split <;> omega

end Sys2Proof.Machine

namespace Sys2Proof.Proofs

open Sys2Proof Sys2Proof.Machine Sys2Proof.Safety

/-- Settles O26: each command by the one change of its output that it makes. -/
theorem outputSettingsAreWritten : Obligations.OutputSettingsAreWritten := by
  intro s sp o hs x
  refine ⟨fun i w => ?_, fun ws => ?_, fun rHi rLo b => ?_, fun code limit hcode => ?_⟩
  · show Host.Outcome.next (s.answered sp 0x40#8 _) = _
    rw [answered_portCommand hs, below_portByte, State.answered_done, Event.modArbiter, Event.finish_modPort]
    rfl
  · have hrow : (Table.ofFn fun i : PortId => clampTop 63 (byteAt ws.toList i.val).toNat) =
        (Table.ofFn fun i => min (ws.get i).toNat 63 : Table Nat 24) :=
      congrArg Table.ofFn (funext fun i => by rw [byteAt_toList]; rfl)
    show Host.Outcome.next (s.answered sp 0x41#8 (s.holderOnly sp (if ws.toList.length = 24 then _ else _))) = _
    rw [if_pos (by simp), answered_portCommand hs]
    simp only [hrow, State.answered_done, Event.modArbiter, Event.finish_modPort]
    rfl
  · show Host.Outcome.next (s.answered sp 0x42#8 _) = _
    rw [answered_portCommand hs]
    simp only [State.answered_done, Event.modArbiter, Event.finish_modPort, clampRange_one (show 1 ≤ 16 by decide)]
    rw [min_eq_ite_cap (s.port o).arbiter.level]
    rfl
  · show Host.Outcome.next (s.answered sp 0x43#8 _) = _
    rw [answered_portCommand hs, holdLimitArg_of_mem hcode, named_some, State.answered_done, Event.finish_modPort]

end Sys2Proof.Proofs

/-! # The transmitters, whatever command is taken (O57) -/

namespace Sys2Proof.Safety

open Sys2Proof Sys2Proof.Machine

/-! ### The laws of one transmitter (R122, R123, R128, R52) -/

/-- A transmitter out of DOWN has its link UP (R123). -/
theorem TransmitterLaw.up {x : Port} (h : TransmitterLaw x) (hs : x.tx.state ≠ .down) : x.rx.link = .up :=
  not_not.1 fun hl => hs (h.1.2 hl)

/-- A transmitter with no cell in service, not in SENDING, with no cell on its link (R122). -/
theorem TransmitterLaw.of_no_service {x : Port} (hd : x.tx.state = .down ↔ x.rx.link ≠ .up) (hn : x.tx.service = none)
    (hs : x.tx.state ≠ .sending) (ht : x.tx.timer ≠ none → x.tx.state = .held) (hl : x.tx.onLink.any isCell = false) :
    TransmitterLaw x := by
  have hc : x.tx.sendingCell = none := by
    unfold Transmitter.sendingCell
    rw [hn]
    split
    · next h => cases h
    · rfl
  refine ⟨hd, fun h => absurd h hs, fun v hv => ?_, ht, by simp [hl, hc]⟩
  rw [hn] at hv
  cases hv

/-- A cell in service is that of a SENDING or of a HELD transmitter (R122). -/
theorem TransmitterLaw.no_service {x : Port} (h : TransmitterLaw x) (hs : x.tx.state ≠ .sending) (hh : x.tx.state ≠ .held) :
    x.tx.service = none := by
  obtain ⟨-, -, hserv, -, -⟩ := h
  refine Option.eq_none_iff_forall_not_mem.2 fun v hv => ?_
  rcases hserv v hv with h | ⟨h, -⟩
  · exact hs h
  · exact hh h

/-- A cell is on the link in SENDING alone (R122, R127). -/
theorem TransmitterLaw.no_cell {x : Port} (h : TransmitterLaw x) (hs : x.tx.state ≠ .sending) :
    x.tx.onLink.any isCell = false := by
  obtain ⟨-, -, -, -, hcell⟩ := h
  refine Bool.eq_false_iff.2 fun hl => hcell.1 hl ?_
  unfold Transmitter.sendingCell
  split
  · next hst _ => exact absurd hst hs
  · rfl

/-- No hold timer runs out of HELD (R122). -/
theorem TransmitterLaw.no_timer {x : Port} (h : TransmitterLaw x) (hh : x.tx.state ≠ .held) : x.tx.timer = none := by
  obtain ⟨-, -, -, htimer, -⟩ := h
  exact not_not.1 fun ht => hh (htimer ht)

/-- The end of a unit keeps the spacing counter in its range (R128). -/
theorem SpacingLaw.endUnit {t : Transmitter} (h : SpacingLaw t) (how : UnitEnd) : SpacingLaw (t.endUnit how) := by
  refine ⟨?_, fun _ => .inl (t.endUnit_onLink how)⟩
  obtain ⟨hle, hend⟩ := h
  rw [Transmitter.endUnit_eq]
  split
  · exact hle
  · next hn =>
    dsimp only
    split
    · omega
    · next hm =>
      have : t.spacing ≠ 256 := fun e => (hend e).elim hn hm
      omega

theorem SpacingLaw.abortCell {t : Transmitter} (h : SpacingLaw t) : SpacingLaw t.abortCell := by
  unfold Transmitter.abortCell
  split
  · exact h.endUnit _
  · exact h

theorem SpacingLaw.cutOff {t : Transmitter} (h : SpacingLaw t) : SpacingLaw t.cutOff := by
  unfold Transmitter.cutOff
  split <;> exact h.endUnit _

theorem SpacingLaw.dropCell {t : Transmitter} (h : SpacingLaw t) : SpacingLaw t.dropCell := by
  unfold Transmitter.dropCell
  split
  · exact h.abortCell
  · exact h

/-- No CREDIT word is in flight where none is on the link (R52). -/
theorem FlightLaw.none_inFlight {x : Port} (h : FlightLaw x) (hl : x.tx.onLink.any isCredit = false) :
    x.account.inFlight = none := by
  refine Option.eq_none_iff_forall_not_mem.2 fun w hw => ?_
  rw [h.1 w hw] at hl
  cases hl

theorem FlightLaw.of_none {x : Port} (hn : x.account.inFlight = none) (hl : x.tx.onLink.any isCredit = false) :
    FlightLaw x := by
  refine ⟨fun w hw => ?_, fun _ => hl⟩
  rw [hn] at hw
  cases hw

/-- A cell is no CREDIT word. -/
theorem not_credit_of_cell {u : Option LinkUnit} (h : u.any isCell = true) : u.any isCredit = false := by
  rcases u with _ | u
  · rfl
  · cases u <;> first | rfl | cases h

/-- A cell closed by an abort mark takes no CREDIT word along (R126). -/
theorem FlightLaw.abortCell {x : Port} (h : FlightLaw x) : FlightLaw { x with tx := x.tx.abortCell } := by
  rw [Transmitter.abortCell_eq]
  split
  · next hc => exact .of_none (h.none_inFlight (not_credit_of_cell hc)) rfl
  · exact h

theorem FlightLaw.dropCell {x : Port} (h : FlightLaw x) : FlightLaw { x with tx := x.tx.dropCell } := by
  unfold Transmitter.dropCell
  split
  · exact h.abortCell
  · exact h

end Sys2Proof.Safety

namespace Sys2Proof.Machine

open Sys2Proof Sys2Proof.Safety

/-! ### The laws of a port's transmitter -/

/-- The laws of the transmitter of a port, of its marker spacing and of its word in flight. -/
def Port.Transmits (x : Port) : Prop := TransmitterLaw x ∧ SpacingLaw x.tx ∧ FlightLaw x

/-- The CREDIT word in flight, whether it is void or not (R52). -/
def Account.word (a : Account) : Option (Epoch × List (Key × Nat)) := a.inFlight.map fun w => (w.epoch, w.entries)

/-- What those laws speak of: the link, the word in flight, and of the transmitter its state, cell, timer, unit and spacing. -/
def Port.line (x : Port) : Bool × Option (Epoch × List (Key × Nat)) × TxState × Option Service × Option HoldLimit ×
    Option LinkUnit × Nat :=
  (x.isUp, x.account.word, x.tx.state, x.tx.service, x.tx.timer, x.tx.onLink, x.tx.spacing)

theorem Account.voided_word (a b : Account) (h : b.inFlight = a.voided) : b.word = a.word := by
  unfold Account.word
  rw [h, Account.voided, Option.map_map]
  rfl

theorem Account.word_eq_none (a : Account) : a.word = none ↔ a.inFlight = none := Option.map_eq_none_iff

theorem flightLaw_iff (x : Port) : FlightLaw x ↔
    (∀ w ∈ x.account.word, x.tx.onLink = some (.credit w.1 w.2)) ∧
    (x.account.word = none → x.tx.onLink.any isCredit = false) := by
  refine and_congr ⟨fun h w hw => ?_, fun h w hw => ?_⟩ (by rw [Account.word_eq_none])
  · obtain ⟨f, hf, rfl⟩ := Option.map_eq_some_iff.1 hw
    exact h f hf
  · exact h (w.epoch, w.entries) (Option.map_eq_some_iff.2 ⟨w, hw, rfl⟩)

/-- Of the receiver the laws speak only as of a link that is UP or not (R123). -/
theorem Port.rx_line {x : Port} {r : Receiver} (h : r.link = .up ↔ x.rx.link = .up) :
    ({ x with rx := r } : Port).line = x.line := by
  have hup : (r.link == .up) = (x.rx.link == .up) := Bool.eq_iff_iff.2 (by simpa using h)
  exact congrArg (·, _) hup

/-- `y` keeps the laws of transmitters where `x` does. -/
def Port.Steady (x y : Port) : Prop := x.Transmits → y.Transmits

theorem Port.Steady.of_line {x y : Port} (h : y.line = x.line) : x.Steady y := by
  simp only [Port.line, Prod.mk.injEq] at h
  obtain ⟨hup, hword, hstate, hservice, htimer, honLink, hspacing⟩ := h
  have hlink : y.rx.link ≠ .up ↔ x.rx.link ≠ .up := by
    simpa [Port.isUp] using congrArg (· = false) hup
  have hcell : y.tx.sendingCell = x.tx.sendingCell := by
    unfold Transmitter.sendingCell
    rw [hstate, hservice]
  rintro ⟨ht, hs, hf⟩
  refine ⟨?_, ?_, ?_⟩
  · unfold TransmitterLaw at ht ⊢
    rwa [hstate, hlink, hservice, htimer, honLink, hcell]
  · unfold SpacingLaw at hs ⊢
    rwa [hspacing, honLink]
  · rw [flightLaw_iff] at hf ⊢
    rwa [hword, honLink]

theorem Port.Steady.refl (x : Port) : x.Steady x := id

theorem Port.Steady.trans {x y z : Port} (h : x.Steady y) (h' : y.Steady z) : x.Steady z := fun hx => h' (h hx)

/-! ### Units that end and cells that leave -/

/-- A unit that is no cell ends, and a CREDIT word with its record (R53, R128). -/
theorem Port.Transmits.endUnit {x : Port} (hx : x.Transmits) (hc : x.tx.onLink.any isCell = false) {a : Account}
    (ha : a.inFlight = none) (how : UnitEnd) : ({ x with account := a, tx := x.tx.endUnit how } : Port).Transmits := by
  obtain ⟨⟨hd, hsend, hserv, htimer, hcell⟩, hs, -⟩ := hx
  have hidle : x.tx.sendingCell = none := not_not.1 fun h => by simp [hcell.2 h] at hc
  have hidle' : (x.tx.endUnit how).sendingCell = none := by
    rw [← hidle]
    unfold Transmitter.sendingCell
    rw [Transmitter.endUnit_state, Transmitter.endUnit_service]
  refine ⟨⟨?_, ?_, ?_, ?_, ?_⟩, hs.endUnit how, .of_none ha ?_⟩
  · simpa using hd
  · simpa using hsend
  · simpa using hserv
  · simpa using htimer
  · simp [hidle']
  · simp

/-- A cell that departs leaves its transmitter IDLE (R125). -/
theorem Port.sent_steady {x : Port} {src : Source} (h : x.tx.sendingCell = some src) : x.Steady x.sent := by
  rintro ⟨ht, hs, hf⟩
  obtain ⟨-, -, -, -, honLink⟩ := id ht
  have hcell : x.tx.onLink.any isCell = true := honLink.2 (by simp [h])
  have hsending : x.tx.state = .sending := not_not.1 fun hn => by simp [ht.no_cell hn] at hcell
  have hup := ht.up (by simp [hsending])
  have htimer := ht.no_timer (by simp [hsending])
  refine ⟨.of_no_service ?_ rfl nofun ?_ ?_, hs.endUnit .whole, .of_none (hf.none_inFlight (not_credit_of_cell hcell)) ?_⟩
  · simp [Port.sent, Port.count, hup]
  · simp [Port.sent, htimer]
  · simp [Port.sent]
  · simp [Port.sent]

theorem Transmitter.abortCell_no_cell (t : Transmitter) : t.abortCell.onLink.any isCell = false := by
  rw [Transmitter.abortCell_eq]
  split
  · rfl
  · next h => simpa using h

@[simp] theorem Transmitter.abortCell_timer (t : Transmitter) : t.abortCell.timer = t.timer := by
  rw [Transmitter.abortCell_eq]; split <;> rfl

/-- A transmitter drops its cell in service (R126). -/
theorem Port.dropCell_steady (x : Port) : x.Steady { x with tx := x.tx.dropCell } := by
  rintro ⟨ht, hs, hf⟩
  refine ⟨?_, hs.dropCell, hf.dropCell⟩
  by_cases hn : x.tx.service = none
  · rw [Transmitter.dropCell_of_none hn]
    exact ht
  · obtain ⟨hd, -, -, htimer, -⟩ := ht
    simp only [Transmitter.dropCell, Option.isSome_iff_ne_none.2 hn, if_true]
    refine .of_no_service ?_ rfl ?_ (fun h => ?_) x.tx.abortCell_no_cell
    · cases h : x.tx.state <;> simpa [h] using hd
    · cases h : x.tx.state <;> simp
    · dsimp only at h ⊢
      rw [Transmitter.abortCell_timer] at h
      rw [htimer h]

/-- With no cell on its link, and out of SENDING, a transmitter drops its cell in service and nothing else (R126). -/
theorem Transmitter.dropCell_of_no_cell {t : Transmitter} (hl : t.onLink.any isCell = false) (hs : t.state ≠ .sending) :
    t.dropCell = { t with service := none } := by
  unfold Transmitter.dropCell
  split
  · rw [Transmitter.abortCell_eq, if_neg (by simp [hl])]
    cases h : t.state <;> simp_all
  · next hn =>
    have hn : t.service = none := by simpa using hn
    rw [← hn]

/-- A HELD transmitter whose timer expires is STALLED and drops its cell (R126, R134). -/
theorem Port.stalled_steady {x : Port} (hh : x.tx.state = .held) :
    x.Steady { x with tx := ({ x.tx with state := .stalled, timer := none } : Transmitter).dropCell } := by
  rintro ⟨ht, hs, hf⟩
  have hup := ht.up (by simp [hh])
  have hcell := ht.no_cell (by simp [hh])
  rw [Transmitter.dropCell_of_no_cell (t := { x.tx with state := .stalled, timer := none }) hcell (by simp)]
  exact ⟨.of_no_service (by simp [hup]) rfl nofun (fun h => absurd rfl h) hcell, hs, hf⟩

/-- The transmitter of a link that leaves UP (R123). -/
theorem Port.leaveUp_steady (x : Port) : x.Steady x.leaveUp := by
  rintro ⟨-, hs, -⟩
  have hl : x.tx.cutOff.onLink = none := by
    rw [Transmitter.cutOff_eq]
    split
    · rfl
    · simp
  have hlink : x.leaveUp.tx.onLink = none := hl
  exact ⟨.of_no_service (by simp [Port.leaveUp, Receiver.inDown, Transmitter.linkDown]) rfl nofun (fun h => absurd rfl h)
    (by simp [hlink]), hs.cutOff, .of_none rfl (by simp [hlink])⟩

/-- The transmitter of a link that enters UP (R123). -/
theorem Port.linkUp_steady {x : Port} (hl : x.rx.link ≠ .up) (good : Nat) :
    x.Steady { x with rx := { x.rx with link := .up, good := good, bad := 0 }, tx := x.tx.linkUp } := by
  rintro ⟨ht, hs, hf⟩
  have hdown : x.tx.state = .down := ht.1.2 hl
  have hcell := ht.no_cell (by simp [hdown])
  have hserv := ht.no_service (by simp [hdown]) (by simp [hdown])
  have htimer := ht.no_timer (by simp [hdown])
  exact ⟨.of_no_service (by simp [Transmitter.linkUp]) hserv nofun (fun h => absurd htimer h) hcell, hs, hf⟩

/-- The transmitter under fabric reset (R137). -/
theorem Port.fabricReset_steady (x : Port) : x.Steady x.fabricReset := by
  rintro ⟨-, hs, hf⟩
  have htx : ({ x with tx := x.tx.fabricReset x.isUp } : Port).Transmits := by
    refine ⟨.of_no_service ?_ rfl ?_ (fun h => absurd rfl h) x.tx.abortCell_no_cell, hs.abortCell, hf.abortCell⟩
    · cases h : x.isUp <;> simpa [Transmitter.fabricReset, Port.isUp] using h
    · cases h : x.isUp <;> simp [Transmitter.fabricReset]
  refine Port.Steady.of_line ?_ htx
  have hword : x.fabricReset.account.word = x.account.word := Account.voided_word _ _ rfl
  unfold Port.line
  rw [hword]
  rfl

/-! ### HOLD, RELEASE and picks (R102, R124, R132, R133) -/

/-- A HOLD aborts the cell in service and closes one that is on the link (R132). -/
theorem Port.toHeld_steady {x : Port} (hs : x.tx.state ≠ .down) : x.Steady { x with tx := x.tx.toHeld } := by
  rintro ⟨ht, hspace, hf⟩
  have hup := ht.up hs
  refine ⟨⟨by simp [Transmitter.toHeld, hup], nofun, fun v hv => ?_, fun _ => rfl, ?_⟩, hspace.abortCell, hf.abortCell⟩
  · obtain ⟨w, -, rfl⟩ := Option.map_eq_some_iff.1 hv
    exact .inr ⟨rfl, rfl⟩
  · have hcell : x.tx.toHeld.onLink.any isCell = false := x.tx.abortCell_no_cell
    have hsending : x.tx.toHeld.sendingCell = none := rfl
    simp [hcell, hsending]

/-- A cell goes into service unmarked and not yet started, with none on the link (R102, R124, R133). -/
theorem Port.serve_steady {x y : Port} {v : Service} (hs : x.tx.state ≠ .down) (hs' : x.tx.state ≠ .sending)
    (hv : v.aborted = false) (hv' : v.started = false)
    (hy : y.line = ({ x with tx := { x.tx with state := .sending, service := some v, timer := none } } : Port).line) :
    x.Steady y := by
  refine Port.Steady.trans ?_ (.of_line hy)
  rintro ⟨ht, hspace, hf⟩
  refine ⟨⟨by simp [ht.up hs], fun _ => ⟨v, rfl, hv⟩, fun _ _ => .inl rfl, fun h => absurd rfl h, ?_⟩, hspace, hf⟩
  simp [Transmitter.sendingCell, hv', ht.no_cell hs']

/-- A transmitter without a cell goes to IDLE (R133). -/
theorem Port.toIdle_steady {x : Port} (hs : x.tx.state ≠ .down) (hs' : x.tx.state ≠ .sending)
    (hn : x.tx.service = none) : x.Steady { x with tx := { x.tx with state := .idle, timer := none } } := by
  rintro ⟨ht, hspace, hf⟩
  exact ⟨.of_no_service (by simp [ht.up hs]) hn nofun (fun h => absurd rfl h) (ht.no_cell hs'), hspace, hf⟩

/-! ### The unit boundary (R127, R128) -/

/-- A unit that is no cell goes on a link that stands at a boundary (R127). -/
theorem Port.startUnit_steady {x : Port} {a : Account} {u : LinkUnit} (hl : x.tx.onLink = none) (hu : isCell u = false)
    (hs : x.tx.spacing = 256 → u = .marker)
    (hf : x.account.inFlight = none → FlightLaw { x with account := a, tx := { x.tx with onLink := some u } }) :
    x.Steady { x with account := a, tx := { x.tx with onLink := some u } } := by
  rintro ⟨⟨hd, hsend, hserv, htimer, hcell⟩, ⟨hle, -⟩, hflight⟩
  have hidle : x.tx.sendingCell = none := not_not.1 fun h => by simp [hl] at hcell; exact h hcell
  refine ⟨⟨hd, hsend, hserv, htimer, ?_⟩, ⟨hle, fun h => .inr (congrArg some (hs h))⟩,
    hf (hflight.none_inFlight (by simp [hl]))⟩
  exact ⟨fun h => absurd h (by simp [hu]), fun h => absurd hidle h⟩

/-- A word that is no CREDIT word goes on the link (R129, R130). -/
theorem Port.startPlain_steady {x : Port} {u : LinkUnit} (hl : x.tx.onLink = none) (hu : isCell u = false)
    (hc : isCredit u = false) (hs : x.tx.spacing = 256 → u = .marker) :
    x.Steady { x with tx := { x.tx with onLink := some u } } :=
  Port.startUnit_steady (a := x.account) hl hu hs fun hn => .of_none hn (by simp [hc])

/-- The word that is taken, where one is offered (R52, R129, R130, R131). -/
theorem Port.takeWord_steady {map : OutSet} {x y : Port} (hl : x.tx.onLink = none) (hs : x.tx.spacing ≠ 256)
    (h : x.takeWord map = some y) : x.Steady y := by
  unfold Port.takeWord at h
  split at h
  · obtain ⟨e, -, rfl⟩ := Option.map_eq_some_iff.1 h
    exact (Port.startPlain_steady (u := .resync e) hl rfl rfl fun h => absurd h hs).trans (.of_line rfl)
  split at h
  · cases h
    exact (Port.startPlain_steady (u := .congestion map) hl rfl rfl fun h => absurd h hs).trans (.of_line rfl)
  split at h
  · cases h
    refine (Port.startUnit_steady (u := .credit x.epoch x.account.wordEntries) (a := { x.account with
      inFlight := some { epoch := x.epoch, entries := x.account.wordEntries, void := false } }) hl rfl
      (fun h => absurd h hs) fun _ => ⟨fun w hw => ?_, nofun⟩).trans (.of_line rfl)
    cases hw
    rfl
  · cases h

/-- The cell in service starts on a link that stands at a boundary (R124). -/
theorem Port.startCell_steady {x : Port} {u : LinkUnit} {v : Service} (hl : x.tx.onLink = none) (hs : x.tx.spacing ≠ 256)
    (hu : isCell u = true) (hstate : x.tx.state = .sending) (hv : x.tx.service = some v) :
    x.Steady (x.startCell u) := by
  rintro ⟨⟨hd, hsend, -, htimer, -⟩, ⟨hle, -⟩, hflight⟩
  have hserv : (x.startCell u).tx.service = some { v with started := true } := by simp [Port.startCell, hv]
  obtain ⟨w, hw, hab⟩ := hsend hstate
  obtain rfl : v = w := Option.some.inj (hv.symm.trans hw)
  have hcell : (x.startCell u).tx.onLink.any isCell = true := by simpa [Port.startCell] using hu
  have hsending : (x.startCell u).tx.sendingCell = some v.src := by
    unfold Transmitter.sendingCell
    rw [hserv, show (x.startCell u).tx.state = .sending from hstate]
    rfl
  exact ⟨⟨hd, fun _ => ⟨_, hserv, hab⟩, fun _ _ => .inl hstate, htimer,
    ⟨fun _ => by simp [hsending], fun _ => hcell⟩⟩, ⟨hle, fun h => absurd h hs⟩,
    .of_none (hflight.none_inFlight (by simp [hl])) (not_credit_of_cell hcell)⟩

/-- A cell that waits for its start is in service in SENDING (R124, R127). -/
theorem State.waitingCell_some {s : State} {o : PortId} {u : LinkUnit} (h : s.waitingCell o = some u) :
    (s.port o).tx.state = .sending ∧ isCell u = true ∧
      ∃ v, (s.port o).tx.service = some v ∧ v.started = false ∧ s.cellUnit o v.src = some u := by
  unfold State.waitingCell at h
  split at h
  · next v hstate hv =>
    split at h
    · cases h
    · next hst =>
      refine ⟨hstate, ?_, v, hv, by simpa using hst, h⟩
      unfold State.cellUnit at h
      split at h <;> obtain ⟨e, -, rfl⟩ := Option.map_eq_some_iff.1 h <;> rfl
  · cases h

theorem State.nextUnit_steady {s : State} {o : PortId} {x : Port} (hl : x.tx.onLink = none)
    (hstate : x.tx.state = (s.port o).tx.state) (hserv : x.tx.service = (s.port o).tx.service) :
    x.Steady (s.nextUnit o x) := by
  unfold State.nextUnit
  dsimp only
  split
  · exact Port.startPlain_steady hl rfl rfl fun _ => rfl
  next hs =>
  split
  · next hw =>
    split at hw
    · exact Port.takeWord_steady hl hs hw
    · cases hw
  split
  · next u hu =>
    obtain ⟨hsending, hcell, v, hv, -⟩ := State.waitingCell_some hu
    exact Port.startCell_steady hl hs hcell (hstate.trans hsending) (hserv.trans hv)
  split
  · exact Port.takeWord_steady hl hs ‹_›
  · exact (Port.startPlain_steady (u := .idle) hl rfl rfl fun h => absurd h hs).trans (.of_line rfl)

/-- At a boundary the unit on the link ends and the next one starts (R127, R128). -/
theorem State.boundary_steady {s : State} {o : PortId} (hb : (s.port o).tx.atBoundary = true) :
    (s.port o).Steady (s.nextUnit o { s.port o with tx := (s.port o).tx.endUnit .whole }) := by
  intro hx
  have hplain : (s.port o).tx.onLink.any isCell = false ∧ (s.port o).tx.onLink.any isCredit = false := by
    unfold Transmitter.atBoundary at hb
    split at hb <;> simp_all [isCell, isCredit]
  refine State.nextUnit_steady (by simp) (by simp) (by simp) ?_
  exact hx.endUnit hplain.1 (hx.2.2.none_inFlight hplain.2) .whole

/-! ### The shared operations -/

theorem Event.steady_refl (c : Event) : c.Ports Port.Steady c := fun _ => .refl _

theorem Event.Ports.steady_trans {c d e : Event} (h : c.Ports Port.Steady d) (h' : d.Ports Port.Steady e) :
    c.Ports Port.Steady e := fun q => (h q).trans (h' q)

theorem Event.modPort_steady {c : Event} {p : PortId} {f : Port → Port} (h : (c.port p).Steady (f (c.port p))) :
    c.Ports Port.Steady (c.modPort p f) := Event.modPort_ports .refl c p f h

/-- A change of a port that its laws of transmitters do not speak of. -/
theorem Event.modPort_line {c : Event} {p : PortId} {f : Port → Port}
    (h : ∀ x, (f x).line = x.line := by exact fun _ => rfl) : c.Ports Port.Steady (c.modPort p f) :=
  Event.modPort_steady (.of_line (h _))

theorem Event.foldl_steady {α : Type} (f : Event → α → Event) (hf : ∀ (c : Event) a, c.Ports Port.Steady (f c a))
    (l : List α) (c : Event) : c.Ports Port.Steady (l.foldl f c) := by
  induction l generalizing c with
  | nil => exact c.steady_refl
  | cons a l ih => exact (hf c a).steady_trans (ih _)

theorem Event.raise_steady (c : Event) (n : Notice) : c.Ports Port.Steady (c.raise n) := c.steady_refl

theorem Event.raiseIf_steady (c : Event) (b : Bool) (n : Notice) : c.Ports Port.Steady (c.raiseIf b n) := by
  cases b <;> exact c.steady_refl

theorem Event.count_steady (c : Event) (p : PortId) (k : Counter) : c.Ports Port.Steady (c.count p k) :=
  Event.modPort_line

theorem Event.free_steady (c : Event) (i : PortId) (k : Key) (n : Nat) : c.Ports Port.Steady (c.free i k n) := by
  intro q
  rw [Event.free_port]
  unfold Port.freePlaces
  split
  · split
    · exact .of_line rfl
    · exact .refl _
  · exact .refl _

theorem Event.finish_steady (c : Event) (q : PortId) : (c.port q).Steady (c.finish.port q) := by
  rw [Event.finish_port]
  exact .of_line rfl

theorem Event.guardFault_steady (c : Event) (p : PortId) (k : FaultKind) : c.Ports Port.Steady (c.guardFault p k) := by
  intro q
  show Port.Steady _ ((c.guardFault p k).toState.port q)
  rw [(c.guardFault_eq p k).1]
  exact Event.modPort_steady (f := fun _ => { c.port p with guard := afterFault (c.port p).guard k }) (.of_line rfl) q

theorem Event.clearGuard_steady (c : Event) (p : PortId) : c.Ports Port.Steady (c.clearGuard p) :=
  (Event.modPort_line).steady_trans (Event.raiseIf_steady _ _ _)

/-- A monitor replaced, and a congestion update owed or not, is none of what the laws speak of (R142). -/
theorem Port.owed_line (x : Port) (m : Monitor) (b : Bool) : ({ x with monitor := m, tx := owed b x } : Port).line = x.line := by
  unfold owed
  split <;> rfl

theorem Event.setWaiting_steady (c : Event) (o : PortId) (n : Nat) : c.Ports Port.Steady (c.setWaiting o n) := by
  intro q
  show Port.Steady _ ((c.setWaiting o n).toState.port q)
  rw [(c.setWaiting_eq o n).1]
  simp only [waited, State.port, Table.get_ofFn]
  exact .of_line (Port.owed_line _ _ _)

theorem Event.evaluate_steady (c : Event) (o : PortId) : c.Ports Port.Steady (c.evaluate o) := by
  rw [Event.evaluate_eq_setWaiting]
  exact c.setWaiting_steady o _

theorem Port.issue_steady (x : Port) : x.Steady x.issue := by
  refine .of_line ?_
  unfold Port.line
  rw [Account.voided_word x.account x.issue.account rfl]
  rfl

/-- A withdrawal marks the word in flight void, and with it the administration state may change (R59). -/
theorem Port.withdraw_steady (x : Port) (a : AdminState) : x.Steady { x.withdraw with admin := a } := by
  refine .of_line ?_
  unfold Port.line
  rw [Account.voided_word x.account x.withdraw.account rfl]
  rfl

/-! ### Outputs that become unavailable, drains, links (R20, R21, R61, R126, R157, R162) -/

/-- The places that an input loses are none of what the laws speak of (R61, R95). -/
theorem Port.afterLoss_line (x : Port) (o : PortId) : (x.afterLoss o).line = x.line := by
  unfold Port.afterLoss Port.line
  dsimp only
  split <;> rfl

theorem State.closedPort_line (s : State) (o q : PortId) :
    (s.closedPort o q).line =
      ({ s.port q with tx := if q = o then (s.port q).tx.dropCell else (s.port q).tx } : Port).line := by
  unfold State.closedPort
  generalize s.port q = x
  have hlost := x.afterLoss_line o
  simp only [Port.line, Prod.mk.injEq] at hlost
  obtain ⟨-, hword, -⟩ := hlost
  split
  · exact congrArg (_, ·, _) hword
  · exact x.afterLoss_line o

/-- All that the laws see of an output that is closed is that its transmitter drops its cell in service (R126). -/
theorem Event.closeOutput_line (c : Event) (o q : PortId) :
    ((c.closeOutput o).port q).line =
      ({ c.port q with tx := if q = o then (c.port q).tx.dropCell else (c.port q).tx } : Port).line := by
  rw [Event.closeOutput_port]
  exact (Port.owed_line (c.closedPort o q) _ _).trans (c.closedPort_line o q)

theorem Event.closeOutput_steady (c : Event) (o : PortId) : c.Ports Port.Steady (c.closeOutput o) := by
  intro q
  refine Port.Steady.trans ?_ (.of_line (c.closeOutput_line o q))
  split
  · exact Port.dropCell_steady _
  · exact .refl _

theorem Event.withdraw_steady (c : Event) (i : PortId) (a : AdminState) :
    c.Ports Port.Steady (c.modPort i fun x => { x.withdraw with admin := a }) :=
  Event.modPort_steady ((c.port i).withdraw_steady a)

theorem Event.endDrain_steady (c : Event) (i : PortId) : c.Ports Port.Steady (c.endDrain i) :=
  (c.withdraw_steady i .disabled).steady_trans (Event.raise_steady _ _)

theorem Event.drainChecks_steady (n : Nat) (l : List PortId) (c : Event) : c.Ports Port.Steady (c.drainChecks n l) :=
  Event.drainChecks_induct (fun d => c.Ports Port.Steady d)
    (fun d i h _ => (h.steady_trans (d.endDrain_steady i)).steady_trans (Event.closeOutput_steady _ i)) n l c c.steady_refl

theorem Event.outputUnavailable_steady (c : Event) (o : PortId) : c.Ports Port.Steady (c.outputUnavailable o) :=
  (c.closeOutput_steady o).steady_trans (Event.drainChecks_steady _ _ _)

/-- A pick takes the transmitter of its output from IDLE into SENDING (R102, R124). -/
theorem Event.pickCheck_steady (c : Event) (o : PortId) : c.Ports Port.Steady (c.pickCheck o) := by
  intro q
  rcases c.pickCheck_port o q with h | ⟨hidle, -, k, -, h⟩
  · rw [h]
    exact .refl _
  · rw [h]
    by_cases hq : q = o
    · subst hq
      intro hx
      have htimer := hx.1.no_timer (by simp [hidle])
      refine Port.serve_steady (v := { src := k.source, aborted := false, started := false }) (by simp [hidle])
        (by simp [hidle]) rfl rfl ?_ hx
      simp [Port.line, Port.isUp, htimer]
    · refine .of_line ?_
      simp only [if_neg hq]
      rfl

theorem Event.enterDown_steady (c : Event) (p : PortId) : c.Ports Port.Steady (c.enterDown p) := by
  unfold Event.enterDown
  split
  · exact (((Event.modPort_steady (Port.leaveUp_steady _)).steady_trans (Event.raise_steady _ _)).steady_trans
      (Event.raiseIf_steady _ _ _)).steady_trans (Event.outputUnavailable_steady _ _)
  · next hu =>
    refine Event.modPort_steady (.of_line (Port.rx_line ?_))
    simpa [Receiver.inDown, Port.isUp] using hu

theorem Event.enterUp_steady {c : Event} {p : PortId} (hl : (c.port p).rx.link ≠ .up) (good : Nat) :
    c.Ports Port.Steady (c.enterUp p good) := by
  have up := Event.modPort_steady (c := c) (p := p)
    (f := fun x => { x with rx := { x.rx with link := .up, good := good, bad := 0 }, tx := x.tx.linkUp })
    (Port.linkUp_steady hl good)
  unfold Event.enterUp
  dsimp only
  refine Event.Ports.steady_trans ?_ ((Event.raise_steady _ _).steady_trans (Event.pickCheck_steady _ _))
  split
  · exact up.steady_trans (Event.modPort_steady (Port.issue_steady _))
  · exact up

theorem Event.resetPort_steady (c : Event) (p : PortId) : c.Ports Port.Steady (c.resetPort p) :=
  ((c.enterDown_steady p).steady_trans (Event.clearGuard_steady _ _)).steady_trans Event.modPort_line

theorem Event.enable_steady (c : Event) (p : PortId) : c.Ports Port.Steady (c.enable p).1 := by
  have enabled : c.Ports Port.Steady (c.modPort p fun x => { x with admin := .enabled }) := Event.modPort_line
  have issued (d : Event) : d.Ports Port.Steady (d.modPort p fun x =>
      { x.issue with tx := { x.issue.tx with congestionUpdate := true } }) :=
    Event.modPort_steady ((d.port p).issue_steady.trans (.of_line rfl))
  unfold Event.enable
  dsimp only
  split
  · exact c.steady_refl
  · dsimp only
    split
    · exact enabled.steady_trans (Event.modPort_steady (Port.issue_steady _))
    · exact enabled
  · refine Event.Ports.steady_trans ?_ (Event.pickCheck_steady _ _)
    split
    · exact enabled.steady_trans (issued _)
    · exact enabled

theorem Event.drain_steady (c : Event) (p : PortId) : c.Ports Port.Steady (c.drain p) := by
  unfold Event.drain
  split
  · exact (c.withdraw_steady p .draining).steady_trans (Event.drainChecks_steady _ _ _)
  all_goals exact c.steady_refl

theorem Event.disable_steady (c : Event) (p : PortId) : c.Ports Port.Steady (c.disable p) := by
  have disabled : c.Ports Port.Steady
      ((c.modPort p fun x => { x.withdraw with admin := .disabled }).outputUnavailable p) :=
    (c.withdraw_steady p .disabled).steady_trans (Event.outputUnavailable_steady _ _)
  unfold Event.disable
  split
  · exact disabled
  · exact disabled
  · exact c.steady_refl

/-- A hold timer expires (R134): its transmitter, STALLED, drops its cell as the output is closed. -/
theorem Event.stall_steady {c : Event} {o : PortId} (hh : (c.port o).tx.state = .held) :
    c.Ports Port.Steady (((c.modPort o fun x =>
      { x with tx := { x.tx with state := .stalled, timer := none } }).raise (.stall o true)).outputUnavailable o) := by
  refine Event.Ports.steady_trans (fun q => ?_) (Event.drainChecks_steady _ _ _)
  refine Port.Steady.trans ?_ (.of_line (Event.closeOutput_line _ o q))
  rw [Event.raise_port, Event.modPort_port]
  split
  · next hq => exact Port.stalled_steady (hq ▸ hh)
  · exact .refl _

/-! ### Departures and classification (R26, R125) -/

theorem Event.meterDeparture_steady (c : Event) (o : PortId) (d : Departed) :
    c.Ports Port.Steady (c.meterDeparture o d) := by
  have taken (m : Table Meter 8) : c.Ports Port.Steady { c with meters := m } := c.steady_refl
  exact (taken _).steady_trans (Event.foldl_steady _ (fun e _ => e.raiseIf_steady _ _) _ _)

theorem Event.leaves_steady (c : Event) (o : PortId) (src : Source) (n : Nat) :
    c.Ports Port.Steady (c.leaves o src n) := by
  have left : c.Ports Port.Steady (c.modPort src.input (Port.depart o src)) := by
    cases src <;> exact Event.modPort_line
  exact left.steady_trans (Event.free_steady _ _ _ _)

theorem Event.depart_steady {c : Event} {o : PortId} {src : Source} (h : (c.port o).tx.sendingCell = some src) :
    c.Ports Port.Steady (c.depart o src) := by
  unfold Event.depart
  rw [Event.complete_parts]
  exact (((((Event.modPort_steady (Port.sent_steady h)).steady_trans (Event.leaves_steady _ _ _ _)).steady_trans
    (Event.setWaiting_steady _ _ _)).steady_trans (Event.meterDeparture_steady _ _ _)).steady_trans
    (Event.drainChecks_steady _ _ _)).steady_trans (Event.pickCheck_steady _ _)

theorem Event.discardCharged_steady (c : Event) (p : PortId) (key : Key) (k : Counter) :
    c.Ports Port.Steady (c.discardCharged p key k) := (c.count_steady p k).steady_trans (Event.free_steady _ _ _ _)

theorem Event.acceptCell_steady (c : Event) (p d : PortId) (h : Header) (payload : List Byte) :
    c.Ports Port.Steady (c.acceptCell p d h payload) :=
  (((Event.modPort_line).steady_trans (Event.count_steady _ _ _)).steady_trans
    (Event.setWaiting_steady _ _ _)).steady_trans (Event.pickCheck_steady _ _)

theorem Event.acceptCopies_steady (c : Event) (p : PortId) (h : Header) (payload : List Byte) (r : OutSet) :
    c.Ports Port.Steady (c.acceptCopies p h payload r) :=
  (((Event.modPort_line).steady_trans (Event.count_steady _ _ _)).steady_trans
    (Event.foldl_steady _ (fun e o => e.setWaiting_steady o _) _ _)).steady_trans
    (Event.foldl_steady _ (fun e o => e.pickCheck_steady o) _ _)

theorem Event.place_steady (c : Event) (p : PortId) (h : Header) (payload : List Byte) :
    c.Ports Port.Steady (c.place p h payload) := by
  have looked (g : Table GroupSet 256) : c.Ports Port.Steady { c with groups := g } := c.steady_refl
  unfold Event.place
  split
  · dsimp only
    split
    · exact c.discardCharged_steady _ _ _
    · split
      · exact (looked _).steady_trans (Event.discardCharged_steady _ _ _ _)
      · exact (looked _).steady_trans (Event.acceptCopies_steady _ _ _ _ _)
  · split
    · dsimp only
      split
      · exact c.acceptCell_steady _ _ _ _
      · exact c.discardCharged_steady _ _ _
    · exact c.steady_refl

theorem Event.classify_steady (c : Event) (p : PortId) (data : List Byte) (closed : CellEnd) :
    c.Ports Port.Steady (c.classify p data closed) := by
  have fault (k : Counter) (f : FaultKind) : c.Ports Port.Steady ((c.discard p k).guardFault p f) :=
    (c.count_steady p k).steady_trans (Event.guardFault_steady _ _ _)
  have issued (k : Counter) (f : FaultKind) :
      c.Ports Port.Steady (((c.discard p k).guardFault p f).modPort p Port.issue) :=
    (fault k f).steady_trans (Event.modPort_steady (Port.issue_steady _))
  have charged (k : Key) : c.Ports Port.Steady (c.charge p k) := Event.modPort_line
  unfold Event.classify
  dsimp only
  split
  · exact c.count_steady _ _
  split
  · exact c.count_steady _ _
  split
  · exact issued _ _
  split
  · exact c.count_steady _ _
  split
  · exact issued _ _
  split
  · exact fault _ _
  split
  · exact (charged _).steady_trans (Event.discardCharged_steady _ _ _ _)
  · exact (charged _).steady_trans (Event.place_steady _ _ _ _)

/-! ### Fabric reset (R137, R183) -/

theorem Event.fabricReset_steady (c : Event) : c.Ports Port.Steady c.fabricReset := by
  have cleared : c.Ports Port.Steady ({ c with
      ports := c.ports.map Port.fabricReset, meters := c.meters.map Meter.fabricReset } : Event) := by
    intro q
    have hq : ({ c with ports := c.ports.map Port.fabricReset, meters := c.meters.map Meter.fabricReset } : Event).port q =
        (c.port q).fabricReset := Table.get_map _ _ _
    rw [hq]
    exact Port.fabricReset_steady _
  have issued (e : Event) : e.Ports Port.Steady ({ e with ports := e.ports.map Port.issueIfLending } : Event) := by
    intro q
    have hq : ({ e with ports := e.ports.map Port.issueIfLending } : Event).port q = (e.port q).issueIfLending :=
      Table.get_map _ _ _
    rw [hq]
    unfold Port.issueIfLending
    split
    · exact Port.issue_steady _
    · exact .refl _
  have told (e : Event) (p : PortId) (x : Port) : e.Ports Port.Steady (e.fabricNotices p x) :=
    ((e.raiseIf_steady _ _).steady_trans (Event.raiseIf_steady _ _ _)).steady_trans (Event.raiseIf_steady _ _ _)
  refine Event.Ports.steady_trans ?_ (issued _)
  refine Event.Ports.steady_trans ?_ (Event.foldl_steady _ (fun e o => e.evaluate_steady o) _ _)
  exact cleared.steady_trans (Event.foldl_steady _ (fun e p => told e p _) _ _)

/-! ### Every command keeps the laws of transmitters -/

/-- Port by port, the second state stands to the first as `Port.Steady` says. -/
def State.Steady (s t : State) : Prop := ∀ q, (s.port q).Steady (t.port q)

theorem State.Steady.refl (s : State) : s.Steady s := fun _ => .refl _

theorem Event.Ports.finish_steady {s : State} {c : Event} (h : (Event.start s).Ports Port.Steady c) :
    s.Steady c.finish := fun q => (h q).trans (c.finish_steady q)

theorem Ends.steady {s : State} {c : Event} (h : (Event.start s).Ports Port.Steady c) :
    Ends s.Steady (.next c.finish) := .next h.finish_steady

theorem Ends.held_steady {s : State} {a : Answer} {sp : SupPort} {code : Byte}
    (ha : a.Leads ((Event.start s).Ports Port.Steady)) :
    Ends s.Steady (.next (s.answered sp code (s.holderOnly sp a))) := by
  refine .held (I := s.Steady) (fun _ _ _ _ _ h => h) (.refl s) ?_
  cases a with
  | done c d => exact Event.Ports.finish_steady ha
  | deny st d => trivial

/-- A receiver that neither enters nor leaves UP leaves the transmitter of its port lawful. -/
theorem Ends.rx_steady {s : State} {p : PortId} {r : Receiver} (h : r.link = .up ↔ (s.port p).rx.link = .up) :
    Ends s.Steady (.next ((Event.start s).modPort p fun x => { x with rx := r }).finish) := by
  exact .steady (Event.modPort_steady (.of_line (Port.rx_line h)))

theorem State.powerUp_steady (s : State) (l : List Instr) : s.Steady { State.reset with pending := l } := by
  intro q _
  have hport : ({ State.reset with pending := l } : State).port q = Port.powerUp := Table.get_fill _ _
  obtain ⟨-, -, -, -, -, -, -, -, -, -, -, ht, hs, -, -, hf⟩ := portLaw_powerUp
  rw [hport]
  exact ⟨ht, hs, hf⟩

theorem Event.markHead_steady (c : Event) (o : PortId) : c.Ports Port.Steady (c.markHead o) := by
  unfold Event.markHead
  split
  · exact Event.modPort_line
  · exact c.steady_refl

/-- The restart flag of a head is no part of its transmitter (R132). -/
theorem Event.markHead_tx (c : Event) (o q : PortId) : ((c.markHead o).port q).tx = (c.port q).tx := by
  unfold Event.markHead
  split
  · rw [Event.modPort_port]
    split <;> rfl
  · rfl

theorem execHold_steady (p : PortId) (s : State) : Ends s.Steady (execHold p s) := by
  unfold execHold
  split
  · split
    · next hst =>
      have htx := (Event.start s).markHead_tx p p
      exact .steady ((Event.markHead_steady _ _).steady_trans (Event.modPort_steady (Port.toHeld_steady (by
        rw [htx]
        simp [hst]))))
    · next hst => exact .steady (Event.modPort_steady (Port.toHeld_steady (by simp [hst])))
    all_goals exact .next (.refl s)
  · exact .next (.refl s)

theorem execRelease_steady (p : PortId) (s : State) : Ends s.Steady (execRelease p s) := by
  unfold execRelease
  split
  · split
    · next hst =>
      split
      · next hv =>
        obtain ⟨v, hv⟩ := Option.isSome_iff_exists.1 hv
        refine .steady (Event.modPort_steady (Port.serve_steady (v := { v with aborted := false, started := false })
          (by simp [hst]) (by simp [hst]) rfl rfl ?_))
        simp [Port.line, Port.isUp, Transmitter.restart, hv]
      · next hv =>
        have idle : (s.port p).Steady { s.port p with tx := { (s.port p).tx with state := .idle, timer := none } } :=
          Port.toIdle_steady (by simp [hst]) (by simp [hst]) (by simpa using hv)
        exact .steady ((Event.modPort_steady idle).steady_trans (Event.pickCheck_steady _ _))
    · next hst =>
      have idle : (s.port p).Steady { s.port p with tx := { (s.port p).tx with state := .idle } } := fun hx => by
        have htimer := hx.1.no_timer (by simp [hst])
        have hidle := Port.toIdle_steady (by simp [hst]) (by simp [hst]) (hx.1.no_service (by simp [hst]) (by simp [hst])) hx
        rwa [← htimer] at hidle
      exact .steady (((Event.modPort_steady idle).steady_trans (Event.raise_steady _ _)).steady_trans
        (Event.pickCheck_steady _ _))
    all_goals exact .next (.refl s)
  · exact .next (.refl s)

theorem execMarkerReceived_steady (p : PortId) (w : ControlWord) (s : State) :
    Ends s.Steady (execMarkerReceived p w s) := by
  unfold execMarkerReceived
  dsimp only
  split
  · split
    · exact .next (.refl s)
    · next hl =>
      refine .rx_steady ?_
      unfold Receiver.holdoffMarker
      split <;> simp [hl]
    · next hl =>
      split
      · split
        · exact .steady (Event.enterUp_steady (by simp [hl]) _)
        · exact .rx_steady .rfl
      · exact .rx_steady .rfl
    · split
      · exact .rx_steady .rfl
      · split
        · exact .steady (Event.enterDown_steady _ _)
        · exact .rx_steady .rfl
  · exact .next (.refl s)

theorem execLockLost_steady (p : PortId) (cut : CutShort) (s : State) : Ends s.Steady (execLockLost p cut s) := by
  unfold execLockLost
  split
  · refine .steady (Event.Ports.steady_trans ?_ (Event.enterDown_steady _ p))
    split
    · exact Event.count_steady _ _ _
    · exact Event.steady_refl _
  · exact .next (.refl s)

/-- The completion of a word ends it, and the record of a CREDIT word with it (R53, R56, R129, R130). -/
theorem Ends.word_steady {s : State} {o : PortId} {u : LinkUnit} {a : Account} (hu : (s.port o).tx.onLink = some u)
    (hc : isCell u = false) (ha : (isCredit u = false → (s.port o).account.inFlight = none) → a.inFlight = none) :
    Ends s.Steady (.next ((Event.start s).modPort o fun x => { x with account := a, tx := x.tx.endUnit .whole }).finish) := by
  refine .steady (Event.modPort_steady fun hx => ?_)
  exact Port.Transmits.endUnit (x := s.port o) hx (by simp [hu, hc])
    (ha fun h => hx.2.2.none_inFlight (by simp [hu, h])) .whole

theorem Account.wordDone_inFlight (a : Account) : a.wordDone.inFlight = none := by
  unfold Account.wordDone
  split
  · assumption
  · split <;> rfl

/-- Every command keeps the laws of each transmitter. -/
theorem exec_steady (i : Instr) (s : State) : Ends s.Steady (exec i s) := by
  have leaves (h : leavesPorts i = true) : Ends s.Steady (exec i s) := fun t ht q => by
    have hq : t.port q = s.port q := congrArg (Table.get · q) (exec_leavesPorts i s h t ht)
    rw [hq]
    exact .refl _
  cases i
  case powerUpReset => exact .next (s.powerUp_steady _)
  case lockAcquired p =>
    show Ends _ (execLockAcquired p s)
    unfold execLockAcquired
    split
    · next h =>
      refine .rx_steady (r := (s.port p).rx.acquire) ?_
      unfold Receiver.acquire
      split <;> simp [h.2]
    · exact .next (.refl s)
  case lockLost p cut => exact execLockLost_steady p cut s
  case markerReceived p w => exact execMarkerReceived_steady p w s
  case hold p => exact execHold_steady p s
  case release p => exact execRelease_steady p s
  case controlErrorWord p =>
    show Ends _ (execControlErrorWord p s)
    unfold execControlErrorWord
    split
    · exact .steady ((Event.count_steady _ _ _).steady_trans (Event.guardFault_steady _ _ _))
    · exact .next (.refl s)
  case cellReceptionComplete p data closed =>
    show Ends _ (execCellReceptionComplete p data closed s)
    unfold execCellReceptionComplete
    split
    · exact .steady (Event.classify_steady _ _ _ _)
    · exact .next (.refl s)
  case unitBoundary o =>
    show Ends _ (execUnitBoundary o s)
    unfold execUnitBoundary
    split
    · next hb => exact .steady (Event.modPort_steady (State.boundary_steady hb))
    · exact .next (.refl s)
  case departure o =>
    show Ends _ (execDeparture o s)
    unfold execDeparture
    split
    · next hsrc => exact .steady (Event.depart_steady hsrc)
    · exact .next (.refl s)
  case creditWordCompletion o =>
    show Ends _ (execCreditWordCompletion o s)
    unfold execCreditWordCompletion
    split
    · next hu => exact .word_steady hu rfl fun _ => Account.wordDone_inFlight _
    · exact .next (.refl s)
  case resyncCompletion o =>
    show Ends _ (execResyncCompletion o s)
    unfold execResyncCompletion
    split
    · next hu =>
      refine .word_steady hu rfl fun h => ?_
      split <;> exact h rfl
    · exact .next (.refl s)
  case congestionWordCompletion o =>
    show Ends _ (execCongestionWordCompletion o s)
    unfold execCongestionWordCompletion
    split
    · next hu => exact .word_steady (a := (s.port o).account) hu rfl fun h => h rfl
    · exact .next (.refl s)
  case holdTimerExpiry o =>
    show Ends _ (execHoldTimerExpiry o s)
    unfold execHoldTimerExpiry
    split
    · next h => exact .steady (Event.stall_steady h.1)
    · exact .next (.refl s)
  case portAdminEnable | portAdminDrain | portAdminDisable | portReset | guardResume =>
    refine .held_steady ?_
    split
    · simp [Event.enable_steady, Event.drain_steady, Event.disable_steady, Event.resetPort_steady,
        Event.clearGuard_steady]
    · trivial
  case portResync =>
    refine .held_steady ?_
    split
    · rw [Answer.leads_below]
      intro h
      split
      · exact Event.modPort_steady (Port.issue_steady _)
      · exact Event.steady_refl _
    · trivial
  case guardSet =>
    refine .held_steady ?_
    split
    · simp only [Answer.leads_below, Answer.leads_named, Answer.leads_done]
      exact fun _ _ _ _ _ => (Event.modPort_line).steady_trans (Event.raiseIf_steady _ _ _)
    · trivial
  case linkParams | holdLimit | countersClear | weightStage | expressSet =>
    refine .held_steady ?_
    split
    · simp only [Answer.leads_below, Answer.leads_named, Answer.leads_done]
      intros
      exact Event.modPort_line
    · trivial
  case weightStageRow =>
    refine .held_steady ?_
    split
    · split
      · simp only [Answer.leads_below, Answer.leads_done]
        exact fun _ => Event.modPort_line
      · trivial
    · trivial
  case thresholds =>
    refine .held_steady ?_
    split
    · simp only [Answer.leads_below, Answer.leads_done]
      exact fun _ => (Event.modPort_line).steady_trans (Event.evaluate_steady _ _)
    · trivial
  case fabricReset =>
    refine .held_steady ?_
    split
    · exact Event.fabricReset_steady _
    · trivial
  all_goals exact leaves rfl

end Sys2Proof.Machine

namespace Sys2Proof.Proofs

open Sys2Proof Sys2Proof.Machine Sys2Proof.Safety

/-- Settles O57: each shared operation keeps the laws of a transmitter, of its marker spacing and of its word in flight, port by
port, and a command is such operations one after the other. -/
theorem stepKeepsTransmitters : Obligations.StepKeepsTransmitters := by
  intro s t hs ht
  exact step_keeps (I := fun s => ∀ p, (s.port p).Transmits) (fun _ _ h => h)
    (fun i s h t ht p => exec_steady i s t ht p (h p)) hs ht

end Sys2Proof.Proofs

/-! # The unit boundary (O27) -/

namespace Sys2Proof.Machine

open Sys2Proof Sys2Proof.Safety

/-! ### Which words are offered (R52, R129, R130) -/

theorem Port.offersResync_iff (x : Port) : x.offersResync = true ↔ x.rx.link = .up ∧ x.tx.resyncWord ≠ none := by
  simp [Port.offersResync, Port.isUp, Option.isSome_iff_ne_none]

theorem Port.offersCongestion_iff (x : Port) :
    x.offersCongestion = true ↔ x.rx.link = .up ∧ x.tx.congestionUpdate = true ∧ x.admin ≠ .disabled := by
  simp [Port.offersCongestion, Port.isUp, and_assoc]

theorem Port.offersCredit_iff (x : Port) :
    x.offersCredit = true ↔ x.rx.link = .up ∧ x.admin = .enabled ∧ x.account.returnList ≠ [] ∧
      x.account.resyncPending = false ∧ x.account.inFlight = none := by
  simp [Port.offersCredit, Port.lends, and_assoc]

/-! ### The word that is taken, by what is offered (R127) -/

section

variable {x : Port} (map : OutSet)

theorem Port.takeWord_of_resync {e : Epoch} (hup : x.rx.link = .up) (he : x.tx.resyncWord = some e) :
    x.takeWord map =
      some { x with tx := { x.tx with resyncWord := none, wordOwed := false, onLink := some (.resync e) } } := by
  unfold Port.takeWord
  rw [if_pos (x.offersResync_iff.2 ⟨hup, by simp [he]⟩), he]
  rfl

theorem Port.takeWord_of_congestion (hr : ¬ x.offersResync = true) (hc : x.offersCongestion = true) :
    x.takeWord map = some { x with
      tx := { x.tx with congestionUpdate := false, wordOwed := false, onLink := some (.congestion map) } } := by
  unfold Port.takeWord
  rw [if_neg hr, if_pos hc]

theorem Port.takeWord_of_credit (hr : ¬ x.offersResync = true) (hc : ¬ x.offersCongestion = true)
    (ho : x.offersCredit = true) :
    x.takeWord map = some { x with
      account := { x.account with inFlight := some { epoch := x.epoch, entries := x.account.wordEntries, void := false } }
      tx := { x.tx with wordOwed := false, onLink := some (.credit x.epoch x.account.wordEntries) } } := by
  unfold Port.takeWord
  rw [if_neg hr, if_neg hc, if_pos ho]

theorem Port.takeWord_of_none (hr : ¬ x.offersResync = true) (hc : ¬ x.offersCongestion = true)
    (ho : ¬ x.offersCredit = true) : x.takeWord map = none := by
  unfold Port.takeWord
  rw [if_neg hr, if_neg hc, if_neg ho]

end

/-! ### The cell that waits for its start (R124, R127) -/

section

variable {s : State} {o : PortId}

theorem State.waitingCell_of_starts {v : Service} (hstate : (s.port o).tx.state = .sending)
    (hv : (s.port o).tx.service = some v) (hst : v.started = false) : s.waitingCell o = s.cellUnit o v.src := by
  simp [State.waitingCell, hstate, hv, hst]

theorem State.waitingCell_eq_none
    (h : ¬ ((s.port o).tx.state = .sending ∧ ∃ v, (s.port o).tx.service = some v ∧ v.started = false)) :
    s.waitingCell o = none := by
  refine Option.eq_none_iff_forall_ne_some.2 fun u hu => h ?_
  obtain ⟨hstate, -, v, hv, hst, -⟩ := State.waitingCell_some hu
  exact ⟨hstate, v, hv, hst⟩

/-! ### The five steps (R127) -/

variable {x : Port}

theorem State.nextUnit_marker (h : x.tx.spacing = 256) :
    s.nextUnit o x = { x with tx := { x.tx with onLink := some .marker } } := by
  unfold State.nextUnit
  rw [if_pos h]

/-- A word is taken where one is owed or no cell waits (R127, steps 2 and 4). -/
theorem State.nextUnit_word {y : Port} (h : x.tx.spacing ≠ 256) (hy : x.takeWord s.congestionMap = some y)
    (hf : x.tx.wordOwed = true ∨ s.waitingCell o = none) : s.nextUnit o x = y := by
  unfold State.nextUnit
  rw [if_neg h, hy]
  rcases hf with hf | hf
  · rw [hf]
    rfl
  · rw [hf]
    cases x.tx.wordOwed <;> rfl

/-- The cell that waits starts where no word is owed or none is offered (R127, step 3). -/
theorem State.nextUnit_cell {u : LinkUnit} (h : x.tx.spacing ≠ 256) (hu : s.waitingCell o = some u)
    (hw : x.tx.wordOwed = false ∨ x.takeWord s.congestionMap = none) : s.nextUnit o x = x.startCell u := by
  unfold State.nextUnit
  rw [if_neg h, hu]
  rcases hw with hw | hw
  · rw [hw]
    rfl
  · rw [hw]
    cases x.tx.wordOwed <;> rfl

theorem State.nextUnit_idle (h : x.tx.spacing ≠ 256) (hu : s.waitingCell o = none)
    (hw : x.takeWord s.congestionMap = none) : s.nextUnit o x = x.startIdle := by
  unfold State.nextUnit
  rw [if_neg h, hu, hw]
  cases x.tx.wordOwed <;> rfl

end

/-- The unit that ends at a boundary is counted, and owes no word (R127, R128). -/
theorem Transmitter.endUnit_at_boundary {t : Transmitter}
    (h : t.onLink = none ∨ t.onLink = some .idle ∨ t.onLink = some .marker) :
    t.endUnit .whole = { t with
      onLink := none, closed := if t.onLink = none then t.closed else some .whole
      spacing := if t.onLink = some .idle then t.spacing + 1 else if t.onLink = some .marker then 0 else t.spacing } := by
  rw [Transmitter.endUnit_eq]
  rcases h with h | h | h
  · simp only [h, if_true, reduceCtorEq, if_false]
    rw [← h]
  · simp [h, isCell]
  · simp [h, isCell]

theorem Transmitter.atBoundary_iff (t : Transmitter) :
    t.atBoundary = true ↔ t.onLink = none ∨ t.onLink = some .idle ∨ t.onLink = some .marker := by
  unfold Transmitter.atBoundary
  split <;> simp_all

/-- UNIT_BOUNDARY on a link that stands at one replaces its port by what the choice makes of it (R127). -/
theorem execUnitBoundary_eq {s : State} {o : PortId} {x y : Port} (hb : (s.port o).tx.atBoundary = true)
    (hx : { s.port o with tx := (s.port o).tx.endUnit .whole } = x) (hy : s.nextUnit o x = y) :
    exec (.unitBoundary o) s = .next (withPort s o y) := by
  show execUnitBoundary o s = _
  unfold execUnitBoundary
  rw [if_pos hb, Event.finish_modPort, hx, hy]

end Sys2Proof.Machine

namespace Sys2Proof.Proofs

open Sys2Proof Sys2Proof.Machine Sys2Proof.Safety

/-- Settles O27: the unit on the link ends, and each of the five steps is an equation of the choice that follows. -/
theorem unitBoundaryTakesTheFirstThatApplies : Obligations.UnitBoundaryTakesTheFirstThatApplies := by
  intro s o x spacing up resync congestion credit offered starts wordFirst entries closed sent hl
  -- the port once the unit on its link has ended
  have runs {y : Port} (hy : s.nextUnit o { x with
      tx := { x.tx with onLink := none, closed := closed, spacing := spacing } } = y) :
      exec (.unitBoundary o) s = .next (withPort s o y) :=
    execUnitBoundary_eq ((Transmitter.atBoundary_iff _).2 hl)
      (congrArg (fun t => ({ x with tx := t } : Port)) (Transmitter.endUnit_at_boundary hl)) hy
  generalize hended : ({ x with
      tx := { x.tx with onLink := none, closed := closed, spacing := spacing } } : Port) = ended at runs
  have hresync : ended.offersResync = true ↔ resync := hended ▸ Port.offersResync_iff _
  have hcongestion : ended.offersCongestion = true ↔ congestion := hended ▸ Port.offersCongestion_iff _
  have hcredit : ended.offersCredit = true ↔ credit := hended ▸ Port.offersCredit_iff _
  have howed : ended.tx.wordOwed = x.tx.wordOwed := hended ▸ rfl
  have hfirst (h : wordFirst) : ended.tx.wordOwed = true ∨ s.waitingCell o = none :=
    h.imp (howed.trans ·) State.waitingCell_eq_none
  have hnoWord (h : ¬ offered) : ended.takeWord s.congestionMap = none := by
    simp only [offered, not_or] at h
    exact Port.takeWord_of_none _ (hresync.not.2 h.1) (hcongestion.not.2 h.2.1) (hcredit.not.2 h.2.2)
  have hcell (h : x.tx.wordOwed = false ∨ ¬ offered) :
      ended.tx.wordOwed = false ∨ ended.takeWord s.congestionMap = none := h.imp (howed.trans ·) hnoWord
  have hspacing : ended.tx.spacing = spacing := hended ▸ rfl
  refine ⟨fun h => ?_, fun h => ⟨fun e hw hup he => ?_, fun hw hr hc => ?_, fun hw hr hn hc => ?_, ?_, ?_,
    fun hs ho => ?_⟩⟩
  · rw [runs (State.nextUnit_marker (hspacing.trans h)), ← hended]
  · have hword := Port.takeWord_of_resync (x := ended) s.congestionMap (e := e) (hended ▸ hup) (hended ▸ he)
    rw [runs (State.nextUnit_word (hspacing ▸ h) hword (hfirst hw)), ← hended]
  · have hword := Port.takeWord_of_congestion s.congestionMap (hresync.not.2 hr) (hcongestion.2 hc)
    rw [runs (State.nextUnit_word (hspacing ▸ h) hword (hfirst hw)), ← hended]
    rfl
  · have hword := Port.takeWord_of_credit s.congestionMap (hresync.not.2 hr) (hcongestion.not.2 hn) (hcredit.2 hc)
    rw [runs (State.nextUnit_word (hspacing ▸ h) hword (hfirst hw)), ← hended]
    rfl
  · intro v i c e rest hstate hv hst hsrc hq hw
    have hunit : s.waitingCell o = some (.cell (unicastHeader i e) e.payload) := by
      rw [State.waitingCell_of_starts hstate hv hst, hsrc]
      simp [State.cellUnit, hq]
    rw [runs (State.nextUnit_cell (hspacing ▸ h) hunit (hcell hw)), ← hended]
    simp only [Port.startCell, hv]
    rfl
  · intro v i e hstate hv hst hsrc he hw
    have hunit : s.waitingCell o = some (.cell (copyHeader i e) e.payload) := by
      rw [State.waitingCell_of_starts hstate hv hst, hsrc]
      simp [State.cellUnit, he]
    rw [runs (State.nextUnit_cell (hspacing ▸ h) hunit (hcell hw)), ← hended]
    simp only [Port.startCell, hv]
    rfl
  · rw [runs (State.nextUnit_idle (hspacing ▸ h) (State.waitingCell_eq_none hs) (hnoWord ho)), ← hended]
    rfl

end Sys2Proof.Proofs

/-! # HOLD and RELEASE (O31, O32) -/

namespace Sys2Proof.Machine

open Sys2Proof Sys2Proof.Safety

/-- A transmitter that enters HELD, whole (R132): a cell on the link is closed with an abort mark. -/
theorem Transmitter.toHeld_eq (t : Transmitter) :
    t.toHeld =
      let held : Transmitter := { t with
        state := .held, service := t.service.map fun v => { v with aborted := true }
        timer := if t.limit = .off then none else some t.limit }
      if t.onLink.any isCell then aborted held else held := by
  have htimer : t.limit.timer = if t.limit = .off then none else some t.limit := by cases t.limit <;> rfl
  unfold Transmitter.toHeld
  rw [Transmitter.abortCell_eq, htimer]
  by_cases hc : t.onLink.any isCell = true
  · simp only [if_pos hc]
    rfl
  · simp only [if_neg hc]

/-! ### The restart flag of a head (R46, R132) -/

theorem Event.markHead_of_cell {c : Event} {o i : PortId} {cls : Class} {v : Service}
    (hv : (c.port o).tx.service = some v) (hsrc : v.src = .cell i cls) :
    c.markHead o = c.modPort i fun x => x.putQueue o cls (markRestart (x.queue o cls)) := by
  obtain ⟨src, _, _⟩ := v
  subst hsrc
  unfold Event.markHead
  rw [hv]

theorem Event.markHead_of_copy {c : Event} {o i : PortId} {v : Service} (hv : (c.port o).tx.service = some v)
    (hsrc : v.src = .copy i) : c.markHead o = c := by
  obtain ⟨src, _, _⟩ := v
  subst hsrc
  unfold Event.markHead
  rw [hv]

/-! ### HOLD and RELEASE by the state of the transmitter (R132, R133) -/

section

variable {s : State} {p : PortId} (hk : (s.port p).rx.locked = true) (hl : (s.port p).rx.link = .up)
include hk hl

/-- The receiver of a port that is UP and locked delivers (R9, R17). -/
theorem State.delivers_of_up : (s.port p).delivers = true := by simp [Port.delivers, hk, hl]

/-- HOLD in SENDING, where the cell in service is a crosspoint head: its restart flag is set (R46, R132). -/
theorem exec_hold_cell {v : Service} {i : PortId} {c : Class} {e : CellEntry} {rest : List CellEntry}
    (hst : (s.port p).tx.state = .sending) (hv : (s.port p).tx.service = some v) (hsrc : v.src = .cell i c)
    (hq : (s.port i).queue p c = e :: rest) :
    let marked := withPort s i { s.port i with
      queues := (s.port i).queues.put (queueNo p c) ({ e with restart := true } :: rest) }
    exec (.hold p) s = .next (withPort marked p { marked.port p with tx := (s.port p).tx.toHeld }) := by
  have hmark := Event.markHead_of_cell (c := Event.start s) (o := p) hv hsrc
  have htx := (Event.start s).markHead_tx p p
  have hport : (Event.start s).port i = s.port i := rfl
  show execHold p s = _
  unfold execHold
  rw [if_pos (State.delivers_of_up hk hl), hst]
  dsimp only
  rw [Event.finish_of_quiet _ (by rw [hmark]; rfl) (by rw [hmark]; rfl), Event.modPort_toState, htx, hmark,
    Event.modPort_toState, hport, hq]
  rfl

/-- HOLD in SENDING, where the cell in service is a copy (R132). -/
theorem exec_hold_copy {v : Service} {i : PortId} (hst : (s.port p).tx.state = .sending)
    (hv : (s.port p).tx.service = some v) (hsrc : v.src = .copy i) :
    exec (.hold p) s = .next (withPort s p { s.port p with tx := (s.port p).tx.toHeld }) := by
  show execHold p s = _
  unfold execHold
  rw [if_pos (State.delivers_of_up hk hl), hst]
  dsimp only
  rw [Event.markHead_of_copy (c := Event.start s) hv hsrc, Event.finish_modPort]

theorem exec_hold_idle (hst : (s.port p).tx.state = .idle) :
    exec (.hold p) s = .next (withPort s p { s.port p with tx := (s.port p).tx.toHeld }) := by
  show execHold p s = _
  unfold execHold
  rw [if_pos (State.delivers_of_up hk hl), hst]
  dsimp only
  rw [Event.finish_modPort]

theorem exec_hold_ignored (hst : (s.port p).tx.state = .held ∨ (s.port p).tx.state = .stalled) :
    exec (.hold p) s = .next s := by
  show execHold p s = _
  unfold execHold
  rw [if_pos (State.delivers_of_up hk hl)]
  rcases hst with hst | hst <;> rw [hst]

end

/-- A port changed, notices raised, and the check of an arbiter made: the event ends with what they say (R102, R186). -/
theorem Event.finish_pickCheck {c : Event} (hf : c.freed = []) (o : PortId) :
    (c.pickCheck o).finish = notify (afterPick c.toState o) (sortNotices c.raised) := by
  obtain ⟨hs, hr, hf'⟩ := c.pickCheck_eq o
  rw [Event.finish_of_freed_nil _ (hf'.trans hf), hs, hr]

end Sys2Proof.Machine

namespace Sys2Proof.Proofs

open Sys2Proof Sys2Proof.Machine Sys2Proof.Safety

/-- Settles O31: one branch of the meaning of HOLD each, and the transmitter that it leaves in HELD. -/
theorem holdStopsTheOutput : Obligations.HoldStopsTheOutput := by
  intro s p x held hk hl
  have served {v : Service} (hv : x.tx.service = some v) :
      x.tx.toHeld = if x.tx.onLink.any isCell then aborted (held (some { v with aborted := true }))
        else held (some { v with aborted := true }) := by
    rw [Transmitter.toHeld_eq, hv]
    rfl
  have cut {v : Service} {header payload : List Byte} (hv : x.tx.service = some v)
      (h : x.tx.onLink = some (.cell header payload)) : x.tx.toHeld = aborted (held (some { v with aborted := true })) :=
    (served hv).trans (if_pos (by rw [h]; rfl))
  have uncut {v : Service} (hv : x.tx.service = some v) (h : x.tx.onLink.any isCell = false) :
      x.tx.toHeld = held (some { v with aborted := true }) := (served hv).trans (if_neg (by simp [h]))
  refine ⟨fun v i c e rest header payload hst hv hsrc hq hcell => ?_, fun v i c e rest hst hv hsrc hq hcell => ?_,
    fun v i header payload hst hv hsrc hcell => ?_, fun v i hst hv hsrc hcell => ?_, fun hst hv hcell => ?_,
    exec_hold_ignored hk hl⟩
  · rw [← cut hv hcell]
    exact exec_hold_cell hk hl hst hv hsrc hq
  · rw [← uncut hv hcell]
    exact exec_hold_cell hk hl hst hv hsrc hq
  · rw [← cut hv hcell]
    exact exec_hold_copy hk hl hst hv hsrc
  · rw [← uncut hv hcell]
    exact exec_hold_copy hk hl hst hv hsrc
  · have htx : x.tx.toHeld = held none := by
      rw [Transmitter.toHeld_eq, hv]
      exact if_neg (by simp [hcell])
    rw [← htx]
    exact exec_hold_idle hk hl hst

/-- Settles O32: one branch of the meaning of RELEASE each. -/
theorem releaseResumesTheOutput : Obligations.ReleaseResumesTheOutput := by
  intro s p x hk hl
  have hd : x.delivers = true := State.delivers_of_up hk hl
  have hrun : exec (.release p) s = execRelease p s := rfl
  rw [hrun]
  unfold execRelease
  rw [if_pos hd]
  refine ⟨fun v hst hv => ?_, fun hst hv => ?_, fun hst => ?_, fun hst => ?_⟩
  · rw [show (s.port p).tx.state = .held from hst]
    dsimp only
    rw [if_pos (by simp [show (s.port p).tx.service = some v from hv]), Event.finish_modPort]
    have htx : x.tx.restart = { x.tx with
        state := .sending, timer := none, service := some { v with aborted := false, started := false } } := by
      rw [Transmitter.restart, hv]
      rfl
    rw [← htx]
  · rw [show (s.port p).tx.state = .held from hst]
    dsimp only
    rw [if_neg (by simp [show (s.port p).tx.service = none from hv]), Event.finish_pickCheck rfl]
    rfl
  · rw [show (s.port p).tx.state = .stalled from hst]
    dsimp only
    rw [Event.finish_pickCheck rfl]
    rfl
  · rcases hst with hst | hst <;> rw [show (s.port p).tx.state = _ from hst]

end Sys2Proof.Proofs

/-! # The hold timer expires (O33) -/

namespace Sys2Proof.Machine

open Sys2Proof Sys2Proof.Safety

/-! ### What the end of an event leaves of a port -/

section

variable (c : Event) (q : PortId)

theorem Event.finish_sameStore : (c.port q).SameStore (c.finish.port q) := by
  rw [Event.finish_port]
  exact ⟨rfl, rfl, rfl, rfl, rfl⟩

theorem Event.finish_own : (c.finish.port q).tx = (c.port q).tx ∧ (c.finish.port q).rx = (c.port q).rx ∧
    (c.finish.port q).admin = (c.port q).admin ∧ (c.finish.port q).guard = (c.port q).guard := by
  rw [Event.finish_port]
  exact ⟨rfl, rfl, rfl, rfl⟩

end

/-! ### What an input gains as an output is closed (R50, R51) -/

/-- An input whose own account the event has left before an output is closed gains the places that it loses by it. -/
theorem gainsLost_of_closeOutput {s : State} {o q : PortId} {d : Event} (hq : (s.port q).SameStore (d.port q))
    (hlink : (d.port q).rx.link = (s.port q).rx.link) (hadmin : (d.port q).admin = (s.port q).admin)
    (hacc : (d.port q).account = (s.port q).account) (hf : d.freed = []) : GainsLost q s (d.closeOutput o).finish := by
  have hlends : (d.port q).lends = (s.port q).lends := by unfold Port.lends; rw [hlink, hadmin]
  have hbefore (k : Key) : (d.port q).occupancy k = (s.port q).occupancy k :=
    Port.occupancy_congr hq.queues hq.copies k
  have hafter (k : Key) : ((d.closeOutput o).finish.port q).occupancy k = ((d.port q).loseOutput o).occupancy k := by
    obtain ⟨hqueues, hcopies, -⟩ := d.closeOutput_store o q
    have hfin := (d.closeOutput o).finish_sameStore q
    exact Port.occupancy_congr (hfin.queues.trans hqueues) (hfin.copies.trans hcopies) k
  have haccount : ((d.closeOutput o).port q).account = ((d.port q).afterLoss o).account := (d.closeOutput_quiet o q).account
  have hport : ((d.closeOutput o).finish.port q).account = { ((d.port q).afterLoss o).account with
      returnList := ((d.closeOutput o).joining q).foldl joinKey ((d.port q).afterLoss o).account.returnList } := by
    rw [Event.finish_port, haccount]
  unfold GainsLost
  simp only [hafter]
  rw [hport]
  by_cases hl : (s.port q).lends = true
  · rw [if_pos ((Port.lends_iff _).1 hl), Event.joining_closeOutput hf rfl (hlends.trans hl)]
    simp only [Port.afterLoss, hlends, hl, if_true, hacc, hbefore]
  · have hnone : (d.closeOutput o).joining q = [] := by
      have h := Event.joining_perm hf (rfl : (d.closeOutput o).freed = _) q
      rwa [Port.lossKeys, hlends, if_neg hl, List.perm_nil] at h
    rw [if_neg fun h => hl ((Port.lends_iff _).2 h), hnone]
    simp only [Port.afterLoss, hlends, hl, Bool.false_eq_true, if_false, hacc]
    rfl

/-! ### The event of an expiry (R134) -/

/-- The event as the hold timer of `o` expires, before its output is closed. -/
def Event.expired (s : State) (o : PortId) : Event :=
  ((Event.start s).modPort o fun x =>
    { x with tx := { x.tx with state := .stalled, timer := none } }).raise (.stall o true)

section

variable (s : State) (o : PortId)

theorem Event.expired_port : (Event.expired s o).port o =
    { s.port o with tx := { (s.port o).tx with state := .stalled, timer := none } } := by
  unfold Event.expired
  rw [Event.raise_port, Event.modPort_port_self]
  rfl

theorem Event.expired_agreeBut : s.AgreeBut o (Event.expired s o).toState := by
  unfold Event.expired
  rw [Event.raise_toState]
  exact Event.agreeBut_modPort (c := Event.start s) ⟨rfl, rfl, rfl, rfl, rfl⟩

theorem Event.expired_admin (q : PortId) : ((Event.expired s o).port q).admin = (s.port q).admin := by
  unfold Event.expired
  rw [Event.raise_port, Event.modPort_port]
  split <;> rfl

end

@[simp] theorem Transmitter.dropCell_timer (t : Transmitter) : t.dropCell.timer = t.timer := by
  unfold Transmitter.dropCell
  split
  · exact t.abortCell_timer
  · rfl

/-- A STALLED transmitter whose timer has stopped is STALLED without a cell once its output is closed, whatever drains complete
(R126, R134, R162). -/
theorem Event.outputUnavailable_stalled {c : Event} {o : PortId} (hst : (c.port o).tx.state = .stalled)
    (ht : (c.port o).tx.timer = none) :
    ((c.outputUnavailable o).port o).tx.state = .stalled ∧ ((c.outputUnavailable o).port o).tx.service = none ∧
      ((c.outputUnavailable o).port o).tx.timer = none := by
  -- what the closing of an output leaves of these parts of a transmitter
  have closed (d : Event) (i : PortId) (hs : (d.port o).tx.state = .stalled) (ht : (d.port o).tx.timer = none)
      (hv : o = i ∨ (d.port o).tx.service = none) : ((d.closeOutput i).port o).tx.state = .stalled ∧
        ((d.closeOutput i).port o).tx.service = none ∧ ((d.closeOutput i).port o).tx.timer = none := by
    have hline := d.closeOutput_line i o
    simp only [Port.line, Prod.mk.injEq] at hline
    obtain ⟨-, -, hstate, hservice, htimer, -⟩ := hline
    rw [hstate, hservice, htimer]
    split
    · exact ⟨(Transmitter.dropCell_stalled _).2 hs, Transmitter.dropCell_service _, (Transmitter.dropCell_timer _).trans ht⟩
    · next hne => exact ⟨hs, hv.resolve_left hne, ht⟩
  refine Event.outputUnavailable_induct (fun d => (d.port o).tx.state = .stalled ∧ (d.port o).tx.service = none ∧
    (d.port o).tx.timer = none) o (fun d i ⟨hs, hv, ht⟩ _ => ?_) c (closed c o hst ht (.inl rfl))
  have hend : ((d.endDrain i).port o).tx = (d.port o).tx := by
    unfold Event.endDrain
    rw [Event.raise_port, Event.modPort_port]
    split <;> rfl
  exact closed _ i (hend ▸ hs) (hend ▸ ht) (.inr (hend ▸ hv))

/-- The notices of an output that stalls, in the order of R186. -/
theorem sortNotices_stall (s : State) (o : PortId) :
    sortNotices ([.stall o true] ++ flushEdge s o) = flushEdge s o ++ [.stall o true] := by
  unfold flushEdge flagEdge
  split
  · rfl
  · exact sortNotices_pair_swap rfl

theorem exec_holdTimerExpiry {s : State} {o : PortId} (hst : (s.port o).tx.state = .held)
    (ht : (s.port o).tx.timer ≠ none) :
    exec (.holdTimerExpiry o) s = .next ((Event.expired s o).outputUnavailable o).finish :=
  if_pos ⟨hst, Option.isSome_iff_ne_none.2 ht⟩

/-- Whether a transmitter comes to owe the map is told by receiver, administration and the transmitter itself (R142). -/
theorem owed_congr {b : Bool} {x y : Port} (hrx : x.rx = y.rx) (hadmin : x.admin = y.admin) (htx : x.tx = y.tx) :
    Safety.owed b x = Safety.owed b y := by
  unfold Safety.owed
  rw [hrx, hadmin, htx]

/-- What an output keeps and counts of its own part as it is closed (R61, R126, R189). -/
theorem Event.closeOutput_port_self (c : Event) (o : PortId) :
    let y := (c.closeOutput o).port o
    let n := (c.port o).monitor.waiting - c.owed o
    y.tx = Safety.owed (flagAt c.toState o n != (c.port o).monitor.flag)
        { c.port o with tx := (c.port o).tx.dropCell } ∧
      y.rx = (c.port o).rx ∧ y.admin = (c.port o).admin ∧ y.guard = (c.port o).guard ∧
      y.counters = flushedCounters c.toState o (c.port o).counters := by
  dsimp only
  rw [Event.closeOutput_port]
  simp only [State.closedPort, if_true, flushedCounters]
  generalize c.toState.port o = x
  exact ⟨owed_congr rfl rfl rfl, rfl, rfl, rfl, rfl⟩

/-- The output of an expired hold timer, once it is closed and where no drain completes (R61, R126, R134, R189). -/
theorem Event.closeOutput_expired_port {s : State} {o : PortId} (hcell : (s.port o).tx.onLink.any isCell = false) :
    let y := ((Event.expired s o).closeOutput o).port o
    let n := (s.port o).monitor.waiting - s.owed o
    y.tx = Safety.owed (flagAt s o n != (s.port o).monitor.flag)
        { s.port o with tx := { (s.port o).tx with state := .stalled, service := none, timer := none } } ∧
      y.rx = (s.port o).rx ∧ y.admin = (s.port o).admin ∧ y.guard = (s.port o).guard ∧
      y.counters = flushedCounters s o (s.port o).counters := by
  have hagree := Event.expired_agreeBut s o
  have hdrop : ({ (s.port o).tx with state := .stalled, timer := none } : Transmitter).dropCell =
      { (s.port o).tx with state := .stalled, service := none, timer := none } :=
    Transmitter.dropCell_of_no_cell hcell (by simp)
  have h := (Event.expired s o).closeOutput_port_self o
  simp only [Event.expired_port, hagree.flagAt, hagree.owed, flushedCounters, hdrop] at h
  exact h

end Sys2Proof.Machine

namespace Sys2Proof.Proofs

open Sys2Proof Sys2Proof.Machine Sys2Proof.Safety

/-- Settles O33: the event of an expiry whatever drains complete, and the flush and prune that is all of it where none does. -/
theorem holdTimerExpiryStalls : Obligations.HoldTimerExpiryStalls := by
  intro s o x hst ht hcell
  refine ⟨_, exec_holdTimerExpiry hst ht, ?_⟩
  have hport := Event.expired_port s o
  have hagree := Event.expired_agreeBut s o
  have hadmin := Event.expired_admin s o
  have hfreed : (Event.expired s o).freed = [] := rfl
  obtain ⟨hstate, hservice, htimer⟩ := (Event.expired s o).outputUnavailable_stalled (o := o) (by rw [hport]) (by rw [hport])
  have hclear (i : PortId) : (((Event.expired s o).outputUnavailable o).finish.port i).ClearOf o :=
    (Event.finish_calm _ i).toEntries.clearOf (Event.outputUnavailable_clearOf _ o i)
  have hfin := (((Event.expired s o).outputUnavailable o).finish_own o).1
  refine ⟨hfin ▸ hstate, hfin ▸ hservice, hfin ▸ htimer, fun i q => ?_, fun i => (hclear i).2.2, fun hnd => ?_⟩
  · cases q
    · exact (hclear i).1
    · exact (hclear i).2.1
  · have hclosed : (Event.expired s o).outputUnavailable o = (Event.expired s o).closeOutput o :=
      Event.outputUnavailable_of_noneEnds fun q hq => by
        have h := hnd q ((hadmin q).symm.trans hq)
        obtain ⟨-, -, hfinad, -⟩ := ((Event.expired s o).outputUnavailable o).finish_own q
        rwa [hfinad] at h
    rw [hclosed]
    obtain ⟨htx, hrx, had, hguard, hcounters⟩ := Event.closeOutput_expired_port hcell
    obtain ⟨hfintx, hfinrx, hfinad, hfinguard⟩ := ((Event.expired s o).closeOutput o).finish_own o
    obtain ⟨-, -, -, hunits, hspi, -⟩ := (Event.expired s o).closeOutput_shared o
    refine ⟨flushedToward_of_closeOutput hagree hfreed (.refl o _) rfl,
      gainsLost_of_closeOutput (hagree.sameStore o) (by rw [hport]) (hadmin o) (by rw [hport]) hfreed,
      hfintx.trans htx, hfinrx.trans hrx, hfinad.trans had, hfinguard.trans hguard,
      (Event.finish_counters _ o).trans hcounters, ?_, ?_⟩
    · rw [Event.finish_spi]
      exact hspi
    · have hraised : ((Event.expired s o).closeOutput o).raised = [.stall o true] ++ flushEdge s o := by
        rw [(Event.closeOutput_eq _ o).2.1]
        exact congrArg ([.stall o true] ++ ·) (hagree.flushEdge o)
      rw [Event.finish_units_of (s := s) hunits, hraised, sortNotices_stall]

end Sys2Proof.Proofs

/-! # The commands of the monitors and the meters (O34, O35) -/

namespace Sys2Proof.Machine

open Sys2Proof Sys2Proof.Safety

/-! ### The meter commands (R150 to R152) -/

/-- The selector that the two bytes of METER_SET name (R150, R173). -/
theorem meterSelArg_of_names {b input : Byte} {sel : MeterSel}
    (h : (b, sel) ∈ [(0#8, MeterSel.all), (1#8, .express), (2#8, .bulk), (3#8, .multicast)] ∨
      b = 4#8 ∧ ∃ i : PortId, input = portByte i ∧ sel = .fromInput i) : meterSelArg b input = .ok sel := by
  rcases h with h | ⟨rfl, i, rfl, rfl⟩
  · simp only [List.mem_cons, Prod.mk.injEq, List.not_mem_nil, or_false] at h
    rcases h with ⟨rfl, rfl⟩ | ⟨rfl, rfl⟩ | ⟨rfl, rfl⟩ | ⟨rfl, rfl⟩ <;> rfl
  · have hi : (portByte i).toNat < 24 := by simp
    show (if h : (portByte i).toNat < 24 then _ else _) = _
    rw [dif_pos hi]
    simp

theorem meterModeArg_of_mem {b : Byte} {mode : MeterMode}
    (h : (b, mode) ∈ [(0#8, MeterMode.wrap), (1#8, .saturate)]) : meterModeArg b = some mode := by
  simp only [List.mem_cons, Prod.mk.injEq, List.not_mem_nil, or_false] at h
  rcases h with ⟨rfl, rfl⟩ | ⟨rfl, rfl⟩ <;> rfl

/-- An event that writes one meter ends with that meter written and nothing else. -/
theorem Event.finish_setMeter (s : State) (k : Fin 8) (y : Meter) :
    ((Event.start s).setMeter k y).finish = { s with meters := s.meters.put k y } :=
  Event.finish_of_quiet _ rfl rfl

section

variable {s : State} {sp : SupPort} (hs : s.master.holder = some sp) (k : Fin 8)
include hs

/-- A command of the holder with one argument, a meter, writes that meter and answers (R151, R152). -/
theorem next_meterCommand (code : Byte) (y : Meter → Meter) (data : Meter → Meter → RespData) :
    (.next (s.answered sp code (s.holderOnly sp (below 8 1 (BitVec.ofNat 8 k.val : Byte).toNat fun k =>
      .done ((Event.start s).setMeter k (y (s.meters.get k))) (data (s.meters.get k) (y (s.meters.get k)))))) :
      Host.Outcome State Fault Refusal) =
      .next (({ s with meters := s.meters.put k (y (s.meters.get k)) } : State).respond sp code .ok
        (data (s.meters.get k) (y (s.meters.get k)))) := by
  rw [State.holderOnly_holder _ _ _ hs, below_meter, State.answered_done, Event.finish_setMeter]

theorem exec_meterStart : exec (.meterStart sp [BitVec.ofNat 8 k.val]) s =
    let m := s.meters.get k
    let y := if m.running then m else { m with running := true, count := 0, seen := 0 }
    .next (({ s with meters := s.meters.put k y } : State).respond sp 0x51#8 .ok
      (.meterStart m.running y.running y.count y.snapshot y.seen)) :=
  next_meterCommand hs k 0x51#8 (fun m => if m.running then m else { m with running := true, count := 0, seen := 0 })
    fun m y => .meterStart m.running y.running y.count y.snapshot y.seen

theorem exec_meterStop : exec (.meterStop sp [BitVec.ofNat 8 k.val]) s =
    let m := s.meters.get k
    let y := if m.running then { m with running := false, count := 0, seen := 0 } else m
    .next (({ s with meters := s.meters.put k y } : State).respond sp 0x52#8 .ok
      (.meterStop y.running y.count y.snapshot y.seen)) :=
  next_meterCommand hs k 0x52#8 (fun m => if m.running then { m with running := false, count := 0, seen := 0 } else m)
    fun _ y => .meterStop y.running y.count y.snapshot y.seen

theorem exec_meterCapture : exec (.meterCapture sp [BitVec.ofNat 8 k.val]) s =
    let m := s.meters.get k
    let y := if m.running then { m with snapshot := m.count, count := 0, seen := 0 } else m
    .next (({ s with meters := s.meters.put k y } : State).respond sp 0x53#8 .ok
      (.meterCapture y.snapshot y.running)) :=
  next_meterCommand hs k 0x53#8 (fun m => if m.running then { m with snapshot := m.count, count := 0, seen := 0 } else m)
    fun _ y => .meterCapture y.snapshot y.running

/-- METER_SET with arguments in order writes a STOPPED meter and refuses a RUNNING one (R150). -/
theorem exec_meterSet {target : PortId} {b input modeByte nHi nLo : Byte} {sel : MeterSel} {mode : MeterMode}
    (hsel : meterSelArg b input = .ok sel) (hmode : meterModeArg modeByte = some mode) :
    exec (.meterSet sp [BitVec.ofNat 8 k.val, portByte target, b, input, modeByte, nHi, nLo]) s =
      let m := s.meters.get k
      let y : Meter := { m with target := target, sel := sel, mode := mode, interval := arg16 nHi nLo }
      .next (if m.running then s.respond sp 0x50#8 .meterRunning .empty
        else ({ s with meters := s.meters.put k y } : State).respond sp 0x50#8 .ok (.meter y)) := by
  show Host.Outcome.next (s.answered sp 0x50#8 (s.holderOnly sp (below 8 1 _ _))) = _
  rw [State.holderOnly_holder _ _ _ hs, below_meter, below_portByte, meterSelector, hsel]
  dsimp only
  rw [hmode, named_some]
  cases hr : (s.meters.get k).running
  · rw [if_neg (by simp), if_neg (by simp), State.answered_done, Event.finish_setMeter]
  · rfl

end

/-! ### THRESHOLDS (R144) -/

/-- Both thresholds of output `o` written, and its flag evaluated (R141, R144). -/
def Event.thresholds (s : State) (o : PortId) (th tl : Nat) : Event :=
  ((Event.start s).modPort o fun x => { x with monitor := { x.monitor with th := th, tl := tl } }).evaluate o

section

variable (s : State) (o : PortId) (th tl : Nat)

/-- The monitor of the output after its thresholds are written (R141). -/
theorem Event.thresholds_monitor :
    let m := (s.port o).monitor
    ((Event.thresholds s o th tl).port o).monitor =
      { m with th := th, tl := tl, flag := flagAfter th tl m.waiting m.flag } := by
  have h := (Event.evaluate_output
    ((Event.start s).modPort o fun x => { x with monitor := { x.monitor with th := th, tl := tl } }) o o).2
  rw [if_pos rfl, Event.modPort_port_self] at h
  exact h

/-- A port of a state whose ports are given one by one. -/
theorem State.port_ofFn (f : PortId → Port) (q : PortId) : ({ s with ports := .ofFn f } : State).port q = f q :=
  Table.get_ofFn f q

/-- The event of new thresholds, whole: the monitor, the map owed to the ports and the edge (R141, R142). -/
theorem Event.finish_thresholds :
    let m := (s.port o).monitor
    let flag := flagAfter th tl m.waiting m.flag
    (Event.thresholds s o th tl).finish =
      notify
        { s with ports := .ofFn fun q =>
          let x := s.port q
          { x with
            monitor := if q = o then { m with th := th, tl := tl, flag := flag } else x.monitor
            tx := owed (flag != m.flag) x } }
        (if flag != m.flag then [.congestion o flag] else []) := by
  intro m flag
  unfold Event.thresholds
  generalize hc : (Event.start s).modPort o (fun x => { x with monitor := { x.monitor with th := th, tl := tl } }) = c
  have hport (q : PortId) : c.port q =
      if q = o then { s.port q with monitor := { m with th := th, tl := tl } } else s.port q := by
    rw [← hc, Event.modPort_port]
    by_cases hq : q = o
    · subst hq; rfl
    · rw [if_neg hq, if_neg hq]; rfl
  have hmonitor : (c.port o).monitor = { m with th := th, tl := tl } := by rw [hport, if_pos rfl]
  have hflag : flagAt c.toState o m.waiting = flag := by
    unfold flagAt
    rw [show (c.toState.port o).monitor = _ from hmonitor]
  obtain ⟨hstate, hraised, hfreed⟩ := c.setWaiting_eq o m.waiting
  rw [Event.evaluate_eq_setWaiting, hmonitor, Event.finish_of_freed_nil _ (hfreed.trans (by rw [← hc]; rfl)), hstate,
    hraised]
  congr 1
  · refine State.ext_port (fun q => ?_) ?_ ?_ ?_ ?_ ?_ ?_
    · rw [State.port_ofFn, waited, State.port_ofFn, hflag, hmonitor]
      change { c.port q with
        monitor := if q = o then { (c.port q).monitor with waiting := m.waiting, flag := flag } else (c.port q).monitor
        tx := owed (flag != m.flag) (c.port q) } = _
      rw [hport]
      by_cases hq : q = o
      · subst hq; simp [owed]
      · simp [hq]
    all_goals rw [← hc]; rfl
  · unfold flagEdge
    rw [hflag, show (c.toState.port o).monitor = _ from hmonitor, ← hc]
    by_cases hf : flag = m.flag <;> simp [hf, sortNotices_single, sortNotices_nil]

end

end Sys2Proof.Machine

namespace Sys2Proof.Proofs

open Sys2Proof Sys2Proof.Machine Sys2Proof.Safety

/-- Settles O34: the event of new thresholds, and what its monitor answers. -/
theorem thresholdsEvaluateTheFlag : Obligations.ThresholdsEvaluateTheFlag := by
  intro s sp o thHi thLo tlHi tlLo hs m th tl flag changes
  show Host.Outcome.next (s.answered sp 0x44#8 (s.holderOnly sp (below 24 1 _ _))) = _
  rw [answered_portCommand hs]
  show Host.Outcome.next ((Event.thresholds s o th tl).finish.respond sp 0x44#8 .ok (.thresholds th tl
    ((Event.thresholds s o th tl).port o).monitor.waiting ((Event.thresholds s o th tl).port o).monitor.flag)) = _
  rw [Event.thresholds_monitor, Event.finish_thresholds]
  rfl

/-- Settles O35: each command writes one meter or answers without a change, by whether the meter runs. -/
theorem meterCommandsActOnOneMeter : Obligations.MeterCommandsActOnOneMeter := by
  intro s sp k hs m kByte done
  refine ⟨fun target b input modeByte nHi nLo sel mode hsel hmode => ?_, fun hr => ?_, fun hr => ?_⟩
  · have hset := exec_meterSet (nHi := nHi) (nLo := nLo) (target := target) hs k (meterSelArg_of_names hsel)
      (meterModeArg_of_mem hmode)
    exact ⟨fun hr => hset.trans (congrArg Host.Outcome.next (if_neg (by simp [show (s.meters.get k).running = _ from hr]))),
      fun hr => hset.trans (congrArg Host.Outcome.next (if_pos hr))⟩
  all_goals
    simp only [m] at hr
    simp [m, done, kByte, exec_meterStart hs, exec_meterStop hs, exec_meterCapture hs, hr]

end Sys2Proof.Proofs

/-! # Waiting counts and copies in service (O58) -/

namespace Sys2Proof.Machine

open Sys2Proof Sys2Proof.Safety

/-! ### Replication entries counted (R87, R91, R93, R95)

What a prune, a departure and a pick do to the number of entries that satisfy `P`. -/

/-- An entry that is owed to another output too stays as it loses one (R93, R95). -/
theorem CopyEntry.lose_ne_empty {e : CopyEntry} {o q : PortId} (hq : q ≠ o) (h : e.remaining.has q = true) :
    (e.lose o).remaining ≠ OutSet.empty := by
  intro hn
  have := (OutSet.eq_empty_iff _).1 hn q
  simp [CopyEntry.lose, hq, h] at this

section

variable {P : CopyEntry → Bool} {o : PortId} {l : List CopyEntry}

section

variable (hlose : ∀ e : CopyEntry, P (e.lose o) = P e) (hstay : ∀ e ∈ l, P e = true → ∃ q, q ≠ o ∧ e.remaining.has q = true)
include hlose hstay

theorem countP_pruneCopies : (pruneCopies o l).countP P = l.countP P := by
  unfold pruneCopies
  rw [List.countP_filter, List.countP_map]
  refine List.countP_congr fun e he => ?_
  have hP : P (if e.remaining.has o then e.lose o else e) = P e := by
    split
    · exact hlose e
    · rfl
  simp only [Function.comp_apply, hP, Bool.and_eq_true, bne_iff_ne, and_iff_left_iff_imp]
  intro h
  obtain ⟨q, hq, hr⟩ := hstay e he h
  split
  · exact CopyEntry.lose_ne_empty hq hr
  · exact fun hn => by simp [hn] at hr

theorem countP_departCopy : (departCopy o l).countP P = l.countP P := by
  induction l with
  | nil => rfl
  | cons e l ih =>
    have ih := ih fun a ha => hstay a (.tail _ ha)
    unfold departCopy
    split
    · split
      · next hn =>
        have hP : P e = false := Bool.eq_false_iff.2 fun h => by
          obtain ⟨q, hq, hr⟩ := hstay e (.head _) h
          exact CopyEntry.lose_ne_empty hq hr hn
        rw [List.countP_cons, hP]; rfl
      · rw [List.countP_cons, List.countP_cons, hlose]
    · rw [List.countP_cons, List.countP_cons, ih]

end

/-- A departure takes from the entry in service what it holds for the output (R93). -/
theorem countP_departCopy_served (hlose : ∀ e : CopyEntry, P (e.lose o) = false)
    (hserved : ∀ e ∈ l, e.inService.has o = true → P e = true) (h : ∃ e ∈ l, e.inService.has o = true) :
    (departCopy o l).countP P + 1 = l.countP P := by
  induction l with
  | nil => obtain ⟨e, he, -⟩ := h; cases he
  | cons e l ih =>
    unfold departCopy
    split
    · next hs =>
      rw [List.countP_cons, hserved e (.head _) hs]
      split
      · rfl
      · rw [List.countP_cons, hlose]; rfl
    · next hs =>
      obtain ⟨a, ha, has⟩ := h
      have ha : a ∈ l := (List.mem_cons.1 ha).resolve_left fun he => hs (he ▸ has)
      have := ih (fun a ha => hserved a (.tail _ ha)) ⟨a, ha, has⟩
      rw [List.countP_cons, List.countP_cons]
      omega

/-- A pick changes no entry but by the output it adds to an in-service set (R91). -/
theorem countP_pickCopy (hadd : ∀ e : CopyEntry, P { e with inService := e.inService.add o } = P e) :
    (pickCopy o l).countP P = l.countP P := by
  induction l with
  | nil => rfl
  | cons e l ih =>
    unfold pickCopy
    split
    · rw [List.countP_cons, List.countP_cons, hadd]
    · rw [List.countP_cons, List.countP_cons, ih]

/-- The candidate that is picked takes the output into its in-service set (R91). -/
theorem countP_pickCopy_inService (h : ∃ e ∈ l, e.waitsFor o = true) :
    (pickCopy o l).countP (fun e => e.inService.has o) = l.countP (fun e => e.inService.has o) + 1 := by
  induction l with
  | nil => obtain ⟨e, he, -⟩ := h; cases he
  | cons e l ih =>
    unfold pickCopy
    split
    · next hw =>
      have hs : e.inService.has o = false := by simp only [CopyEntry.waitsFor, Bool.and_eq_true] at hw; simpa using hw.2
      simp [hs]
    · next hw =>
      obtain ⟨a, ha, haw⟩ := h
      have ha : a ∈ l := (List.mem_cons.1 ha).resolve_left fun he => hw (he ▸ haw)
      rw [List.countP_cons, List.countP_cons, ih ⟨a, ha, haw⟩]
      omega

end

/-! ### What an input owes an output (R139) -/

/-- The cells and copies of this input that wait for output `o`. -/
def Port.owes (x : Port) (o : PortId) : Nat :=
  (x.queue o .express).length + (x.queue o .bulk).length + x.copies.countP fun e => e.remaining.has o

theorem allPorts_eq_finRange : allPorts = List.finRange 24 := by decide

/-- What an output is owed is what the inputs owe it (R139). -/
theorem State.owed_eq_sum (s : State) (o : PortId) : s.owed o = ∑ i, (s.port i).owes o := by
  unfold State.owed State.cellsToward State.copiesToward Port.owes
  simp only [allPorts_eq_finRange, ← Fin.sum_univ_def, Finset.sum_add_distrib]

theorem State.owed_congr {s t : State} {o : PortId} (h : ∀ i, (t.port i).owes o = (s.port i).owes o) :
    t.owed o = s.owed o := by
  rw [State.owed_eq_sum, State.owed_eq_sum]
  exact Finset.sum_congr rfl fun i _ => h i

/-- Where one input alone changes, the output is owed by as much more or less as that input owes it. -/
theorem State.owed_add_owes {s t : State} {p o : PortId} (h : ∀ i, i ≠ p → (t.port i).owes o = (s.port i).owes o) :
    t.owed o + (s.port p).owes o = s.owed o + (t.port p).owes o := by
  have split (u : State) : u.owed o = (u.port p).owes o + ∑ i ∈ Finset.univ.erase p, (u.port i).owes o := by
    rw [State.owed_eq_sum, Finset.add_sum_erase _ (fun i => (u.port i).owes o) (Finset.mem_univ p)]
  rw [split s, split t, Finset.sum_congr rfl fun i hi => h i (Finset.ne_of_mem_erase hi)]
  omega

end Sys2Proof.Machine

namespace Sys2Proof.Machine

open Sys2Proof Sys2Proof.Safety

/-! ### What the laws speak of -/

/-- The link and the transmitter of a port, as far as the law of the transmitter tells them (R122, R123). -/
def Port.stage (x : Port) : Bool × TxState × Option Service × Option HoldLimit × Bool :=
  (x.isUp, x.tx.state, x.tx.service, x.tx.timer, x.tx.onLink.any isCell)

/-- The entries of an input: the length of each of its queues, and its copies. -/
def Port.stock (x : Port) : (PortId → Class → Nat) × List CopyEntry := (fun o c => (x.queue o c).length, x.copies)

theorem Port.stage_of_line {x y : Port} (h : y.line = x.line) : y.stage = x.stage := by
  simp only [Port.line, Prod.mk.injEq] at h
  obtain ⟨hup, -, hstate, hservice, htimer, honLink, -⟩ := h
  simp only [Port.stage, hup, hstate, hservice, htimer, honLink]

theorem Port.service_of_stage {x y : Port} (h : y.stage = x.stage) : y.tx.service = x.tx.service := by
  simp only [Port.stage, Prod.mk.injEq] at h
  exact h.2.2.1

/-- The law of a transmitter speaks of its stage alone. -/
theorem transmitterLaw_of_stage {x y : Port} (h : y.stage = x.stage) (hx : TransmitterLaw x) : TransmitterLaw y := by
  simp only [Port.stage, Prod.mk.injEq] at h
  obtain ⟨hup, hstate, hservice, htimer, hcell⟩ := h
  have hlink : y.rx.link ≠ .up ↔ x.rx.link ≠ .up := by
    simpa [Port.isUp] using congrArg (· = false) hup
  have hsending : y.tx.sendingCell = x.tx.sendingCell := by
    unfold Transmitter.sendingCell
    rw [hstate, hservice]
  unfold TransmitterLaw at hx ⊢
  rwa [hstate, hlink, hservice, htimer, hcell, hsending]

theorem Port.queue_length_of_stock {x y : Port} (h : y.stock = x.stock) (o : PortId) (c : Class) :
    (y.queue o c).length = (x.queue o c).length := congrFun₂ (congrArg Prod.fst h) o c

theorem Port.copies_of_stock {x y : Port} (h : y.stock = x.stock) : y.copies = x.copies := congrArg Prod.snd h

theorem Port.owes_of_stock {x y : Port} (h : y.stock = x.stock) (o : PortId) : y.owes o = x.owes o := by
  unfold Port.owes
  rw [Port.queue_length_of_stock h, Port.queue_length_of_stock h, Port.copies_of_stock h]

/-! ### The laws in the course of an event -/

/-- What the laws ask of one output: its transmitter, the head that it has in service, and the entries that hold it in their
in-service sets (R46, R87, R122). -/
structure State.Serves (s : State) (o : PortId) : Prop where
  tx : TransmitterLaw (s.port o)
  head : HeadLaw s o
  copies : ∀ i, ((s.port i).copies.countP fun e => e.inService.has o) =
    if (s.port o).tx.service.map (·.src) = some (.copy i) then 1 else 0

/-- The waiting counts and the copies in service tally with the entries, each of which is in order. -/
structure State.Tallied (s : State) : Prop where
  serves : ∀ o, s.Serves o
  entries : ∀ p, ∀ e ∈ (s.port p).copies, CopyLaw e
  waiting : WaitingLaw s

/-- The laws in the words of the statement. -/
theorem State.tallied_iff (s : State) : s.Tallied ↔
    (∀ p, TransmitterLaw (s.port p) ∧ ∀ e ∈ (s.port p).copies, CopyLaw e) ∧ ServiceLaw s ∧ WaitingLaw s := by
  constructor
  · exact fun h => ⟨fun p => ⟨(h.serves p).tx, h.entries p⟩, fun o => ⟨(h.serves o).head, (h.serves o).copies⟩, h.waiting⟩
  · rintro ⟨hp, hs, hw⟩
    exact ⟨fun o => ⟨(hp o).1, (hs o).1, (hs o).2⟩, fun p => (hp p).2, hw⟩

/-- An output keeps its laws where its cell in service stays, no queue toward it shrinks and the entries that hold it in service
are as many. -/
theorem State.Serves.of_kept {s t : State} {o : PortId} (hs : s.Serves o) (htx : TransmitterLaw (t.port o))
    (hsrc : (t.port o).tx.service.map (·.src) = (s.port o).tx.service.map (·.src))
    (hq : ∀ i c, ((s.port i).queue o c).length ≤ ((t.port i).queue o c).length)
    (hc : ∀ i, ((t.port i).copies.countP fun e => e.inService.has o) =
      (s.port i).copies.countP fun e => e.inService.has o) : t.Serves o where
  tx := htx
  head := headLaw_mono hs.head (fun v hv => Option.map_eq_some_iff.1 (hsrc ▸ Option.map_eq_some_iff.2 ⟨v, hv, rfl⟩))
    fun i c => by rw [Port.occupancy_unicast, Port.occupancy_unicast]; exact hq i c
  copies i := by rw [hc, hsrc, hs.copies]

/-- An output without a cell in service stands in no in-service set. -/
theorem State.Serves.of_none {t : State} {o : PortId} (htx : TransmitterLaw (t.port o))
    (hnone : (t.port o).tx.service = none) (hc : ∀ i, ((t.port i).copies.countP fun e => e.inService.has o) = 0) :
    t.Serves o where
  tx := htx
  head := headLaw_of_none hnone
  copies i := by rw [hc, hnone]; rfl

/-- What none of the laws sees. -/
structure Port.Still (x y : Port) : Prop where
  stage : y.stage = x.stage
  stock : y.stock = x.stock
  waiting : y.monitor.waiting = x.monitor.waiting

theorem Port.Still.refl (x : Port) : x.Still x := ⟨rfl, rfl, rfl⟩

theorem Port.Still.trans {x y z : Port} (h : x.Still y) (h' : y.Still z) : x.Still z :=
  ⟨h'.stage.trans h.stage, h'.stock.trans h.stock, h'.waiting.trans h.waiting⟩

theorem State.Tallied.still {s t : State} (hs : s.Tallied) (h : ∀ q, (s.port q).Still (t.port q)) : t.Tallied where
  serves o := (hs.serves o).of_kept (transmitterLaw_of_stage (h o).stage (hs.serves o).tx)
    (congrArg _ (Port.service_of_stage (h o).stage)) (fun i c => (Port.queue_length_of_stock (h i).stock o c).ge)
    fun i => by rw [Port.copies_of_stock (h i).stock]
  entries p := Port.copies_of_stock (h p).stock ▸ hs.entries p
  waiting o := by
    rw [(h o).waiting, hs.waiting o, State.owed_congr fun i => Port.owes_of_stock (h i).stock o]

/-! ### The law of a transmitter alone

The spacing counter and the record of a word in flight have no part in it, so what is known of all three laws together
holds of it alone. -/

/-- A CREDIT word as its record. -/
def LinkUnit.record : LinkUnit → Option CreditWord
  | .credit epoch entries => some { epoch := epoch, entries := entries, void := false }
  | .idle | .marker | .resync _ | .congestion _ | .cell _ _ => none

/-- The port with its marker spacing at 0 and the record that belongs to the unit on its link. -/
def Port.mended (x : Port) : Port :=
  { x with
    account := { x.account with inFlight := x.tx.onLink.bind LinkUnit.record }
    tx := { x.tx with spacing := 0 } }

theorem Port.mended_transmits {x : Port} (h : TransmitterLaw x) : x.mended.Transmits := by
  refine ⟨h, ⟨Nat.zero_le _, nofun⟩, fun w hw => ?_, fun hn => ?_⟩
  · obtain ⟨u, hu, hw⟩ := Option.bind_eq_some_iff.1 hw
    unfold LinkUnit.record at hw
    split at hw
    · cases hw; exact hu
    all_goals cases hw
  · show x.tx.onLink.any isCredit = false
    have hn : x.tx.onLink.bind LinkUnit.record = none := hn
    cases hl : x.tx.onLink with
    | none => rfl
    | some u =>
      rw [hl] at hn
      cases u
      case credit => cases hn
      all_goals rfl

/-- What keeps the three laws keeps the law of the transmitter. -/
theorem Port.Steady.transmitterLaw {x y z : Port} (h : x.mended.Steady y) (hz : z.stage = y.stage) (hx : TransmitterLaw x) :
    TransmitterLaw z := transmitterLaw_of_stage hz (h (Port.mended_transmits hx)).1

/-- A transmitter that drops its cell in service keeps its law (R126). -/
theorem transmitterLaw_dropCell {x : Port} (hx : TransmitterLaw x) : TransmitterLaw { x with tx := x.tx.dropCell } := by
  refine Port.Steady.transmitterLaw (Port.dropCell_steady x.mended) ?_ hx
  unfold Transmitter.dropCell
  cases hv : x.tx.service <;> simp [Port.stage, Port.mended, Port.isUp, hv, Transmitter.abortCell_no_cell]

/-! ### Operations that none of the laws sees -/

theorem Event.still_refl (c : Event) : c.Ports Port.Still c := fun _ => .refl _

theorem Event.Ports.still_trans {c d e : Event} (h : c.Ports Port.Still d) (h' : d.Ports Port.Still e) :
    c.Ports Port.Still e := fun q => (h q).trans (h' q)

theorem Event.modPort_still {c : Event} {p : PortId} {f : Port → Port}
    (h : (c.port p).Still (f (c.port p))) : c.Ports Port.Still (c.modPort p f) :=
  Event.modPort_ports .refl c p f h

/-- A change of a port that its laws do not speak of. -/
theorem Event.modPort_unseen {c : Event} {p : PortId} {f : Port → Port}
    (h : ∀ x : Port, x.Still (f x) := by exact fun _ => ⟨rfl, rfl, rfl⟩) : c.Ports Port.Still (c.modPort p f) :=
  Event.modPort_still (h _)

theorem Event.foldl_still {α : Type} (f : Event → α → Event) (hf : ∀ (c : Event) a, c.Ports Port.Still (f c a))
    (l : List α) (c : Event) : c.Ports Port.Still (l.foldl f c) := by
  induction l generalizing c with
  | nil => exact c.still_refl
  | cons a l ih => exact (hf c a).still_trans (ih _)

theorem Event.raise_still (c : Event) (n : Notice) : c.Ports Port.Still (c.raise n) := c.still_refl

theorem Event.raiseIf_still (c : Event) (b : Bool) (n : Notice) : c.Ports Port.Still (c.raiseIf b n) := by
  cases b <;> exact c.still_refl

theorem Event.count_still (c : Event) (p : PortId) (k : Counter) : c.Ports Port.Still (c.count p k) := Event.modPort_unseen

theorem Event.free_still (c : Event) (i : PortId) (k : Key) (n : Nat) : c.Ports Port.Still (c.free i k n) := by
  intro q
  rw [Event.free_port]
  split
  · rw [Port.freePlaces_eq]; exact ⟨rfl, rfl, rfl⟩
  · exact .refl _

theorem Event.finish_still (c : Event) (q : PortId) : (c.port q).Still (c.finish.port q) := by
  rw [Event.finish_port]
  exact ⟨rfl, rfl, rfl⟩

theorem Event.guardFault_still (c : Event) (p : PortId) (k : FaultKind) : c.Ports Port.Still (c.guardFault p k) := by
  intro q
  show Port.Still _ ((c.guardFault p k).toState.port q)
  rw [(c.guardFault_eq p k).1]
  exact Event.modPort_still (f := fun _ => { c.port p with guard := afterFault (c.port p).guard k }) ⟨rfl, rfl, rfl⟩ q

theorem Event.clearGuard_still (c : Event) (p : PortId) : c.Ports Port.Still (c.clearGuard p) :=
  (Event.modPort_unseen).still_trans (Event.raiseIf_still _ _ _)

theorem Event.meterDeparture_still (c : Event) (o : PortId) (d : Departed) :
    c.Ports Port.Still (c.meterDeparture o d) := by
  have taken (m : Table Meter 8) : c.Ports Port.Still { c with meters := m } := c.still_refl
  exact (taken _).still_trans (Event.foldl_still _ (fun e _ => e.raiseIf_still _ _) _ _)

/-- Of a change of a waiting count the laws see that count alone (R140). -/
theorem Event.setWaiting_sees (c : Event) (o q : PortId) (n : Nat) :
    ((c.setWaiting o n).port q).stage = (c.port q).stage ∧ ((c.setWaiting o n).port q).stock = (c.port q).stock ∧
      ((c.setWaiting o n).port q).monitor.waiting = if q = o then n else (c.port q).monitor.waiting := by
  have hport : (c.setWaiting o n).port q = (waited c.toState o n).port q :=
    congrArg (State.port · q) (c.setWaiting_eq o n).1
  refine ⟨?_, ?_, ?_⟩
  · rw [hport]
    simp only [waited, State.port, Table.get_ofFn]
    exact Port.stage_of_line (Port.owed_line _ _ _)
  · rw [hport]
    simp only [waited, State.port, Table.get_ofFn]
    rfl
  · rw [(c.setWaiting_output o q n).2]
    split <;> rfl

theorem Event.evaluate_still (c : Event) (o : PortId) : c.Ports Port.Still (c.evaluate o) := by
  intro q
  obtain ⟨hstage, hstock, hwaiting⟩ := c.setWaiting_sees o q (c.port o).monitor.waiting
  rw [Event.evaluate_eq_setWaiting]
  refine ⟨hstage, hstock, hwaiting.trans ?_⟩
  split
  · next h => rw [h]
  · rfl

/-- The restart flag of a head is no part of the length of its queue (R132). -/
theorem Event.markHead_still (c : Event) (o : PortId) : c.Ports Port.Still (c.markHead o) := by
  have hlen (l : List CellEntry) : (markRestart l).length = l.length := by cases l <;> rfl
  unfold Event.markHead
  split
  · next i cls _ _ _ =>
    refine Event.modPort_still ⟨rfl, Prod.ext (funext₂ fun q d => ?_) rfl, rfl⟩
    show (((c.port i).putQueue o cls _).queue q d).length = _
    rw [Port.putQueue_queue]
    split
    · next h => rw [hlen, h.1, h.2]; rfl
    · rfl
  · exact c.still_refl

/-- A receiver that neither enters nor leaves UP (R123). -/
theorem Port.still_rx {x : Port} {r : Receiver} (h : r.link = .up ↔ x.rx.link = .up) : x.Still { x with rx := r } :=
  ⟨Port.stage_of_line (Port.rx_line h), rfl, rfl⟩

/-- A unit that is no cell ends (R53, R128). -/
theorem Port.endUnit_still (x : Port) (a : Account) (h : x.tx.onLink.any isCell = false) :
    x.Still { x with account := a, tx := x.tx.endUnit .whole } := by
  refine ⟨?_, rfl, rfl⟩
  simp [Port.stage, Port.isUp, h]

theorem Event.discardCharged_still (c : Event) (p : PortId) (key : Key) (k : Counter) :
    c.Ports Port.Still (c.discardCharged p key k) := (c.count_still p k).still_trans (Event.free_still _ _ _ _)

end Sys2Proof.Machine

namespace Sys2Proof.Machine

open Sys2Proof Sys2Proof.Safety

/-! ### Outputs that become unavailable, and drains (R61, R95, R126, R140, R157, R162) -/

/-- The entries of an input as output `o` is closed (R61, R95). -/
theorem Event.closeOutput_queue (c : Event) (o i q : PortId) (d : Class) :
    ((c.closeOutput o).port i).queue q d = if q = o then [] else (c.port i).queue q d := by
  rw [← Port.loseOutput_queue]
  unfold Port.queue
  rw [(c.closeOutput_store o i).1]

/-- What an input owes another output stays (R61, R95). -/
theorem Event.closeOutput_owes (c : Event) {o q : PortId} (hq : q ≠ o) (i : PortId) :
    ((c.closeOutput o).port i).owes q = (c.port i).owes q := by
  have hcopies : (pruneCopies o (c.port i).copies).countP (fun e => e.remaining.has q) =
      (c.port i).copies.countP fun e => e.remaining.has q :=
    countP_pruneCopies (fun e => by simp [CopyEntry.lose, hq]) fun e _ h => ⟨q, hq, h⟩
  unfold Port.owes
  rw [(c.closeOutput_store o i).2.1, hcopies, Event.closeOutput_queue, Event.closeOutput_queue, if_neg hq, if_neg hq]

/-- An output that is closed tallies with nothing, and every other output with what it did: of its own transmitter it is only
asked that it be lawful once its cell in service is dropped. -/
theorem Event.closeOutput_tallied {c : Event} {o : PortId} (hserves : ∀ q, q ≠ o → c.Serves q)
    (htx : TransmitterLaw { c.port o with tx := (c.port o).tx.dropCell })
    (hentries : ∀ p, ∀ e ∈ (c.port p).copies, CopyLaw e) (hwaiting : WaitingLaw c.toState) :
    (c.closeOutput o).Tallied := by
  have hstage (q : PortId) := Port.stage_of_line (c.closeOutput_line o q)
  have hcopies (i : PortId) : ((c.closeOutput o).port i).copies = pruneCopies o (c.port i).copies :=
    (c.closeOutput_store o i).2.1
  have hlaw (i : PortId) : ∀ e ∈ ((c.closeOutput o).port i).copies, CopyLaw e :=
    (c.closeOutput_calm o i).toEntries.copyLaw (hentries i)
  refine ⟨fun q => ?_, hlaw, fun q => ?_⟩
  · by_cases hq : q = o
    · subst hq
      refine .of_none (transmitterLaw_of_stage (hstage q) (by rwa [if_pos rfl])) (c.closeOutput_service q) fun i => ?_
      refine List.countP_eq_zero.2 fun e he hs => ?_
      have hr := (hlaw i e he).2.1 q hs
      rw [((c.closeOutput_clears q i).2 e he)] at hr
      cases hr
    · have hstage := (hstage q).trans (by rw [if_neg hq])
      refine (hserves q hq).of_kept (transmitterLaw_of_stage hstage (hserves q hq).tx)
        (congrArg _ (Port.service_of_stage hstage)) (fun i d => ?_) fun i => ?_
      · show _ ≤ (((c.closeOutput o).port i).queue q d).length
        rw [Event.closeOutput_queue, if_neg hq]
      · show ((c.closeOutput o).port i).copies.countP _ = _
        rw [hcopies]
        exact countP_pruneCopies (fun e => by simp [CopyEntry.lose, hq])
          fun e he h => ⟨q, hq, (hentries i e he).2.1 q h⟩
  · show ((c.closeOutput o).port q).monitor.waiting = (c.closeOutput o).owed q
    rw [Event.closeOutput_port]
    by_cases hq : q = o
    · subst hq
      have hclear (i : PortId) : ((c.closeOutput q).port i).ClearOf q := by
        obtain ⟨hnone, hrem⟩ := c.closeOutput_clears q i
        exact ⟨hnone .bulk, hnone .express, hrem⟩
      rw [State.owed_of_clearOf hclear]
      simp [show (c.port q).monitor.waiting = c.owed q from hwaiting q]
    · rw [State.owed_congr (c.closeOutput_owes hq)]
      simp only [if_neg hq]
      exact hwaiting q

theorem State.Tallied.closeOutput {c : Event} (hc : c.Tallied) (o : PortId) : (c.closeOutput o).Tallied :=
  Event.closeOutput_tallied (fun q _ => hc.serves q) (transmitterLaw_dropCell (hc.serves o).tx) hc.entries hc.waiting

theorem State.Tallied.event {c d : Event} (hc : c.Tallied) (h : c.Ports Port.Still d) : d.Tallied := hc.still h

theorem State.Tallied.finish {c : Event} (hc : c.Tallied) : c.finish.Tallied := hc.still c.finish_still

theorem State.Tallied.drainChecks {c : Event} (hc : c.Tallied) (n : Nat) (l : List PortId) : (c.drainChecks n l).Tallied :=
  Event.drainChecks_induct (fun d => d.Tallied) (fun d i hd _ => State.Tallied.closeOutput (c := d.endDrain i)
    (hd.event ((Event.modPort_unseen).still_trans (Event.raise_still _ _))) i) n l c hc

theorem State.Tallied.outputUnavailable {c : Event} (hc : c.Tallied) (o : PortId) : (c.outputUnavailable o).Tallied :=
  (hc.closeOutput o).drainChecks _ _

/-! ### Transmitters that change (R20, R123, R132, R133, R134) -/

/-- From `s` to `t` port `o` alone changes, and of what the laws see its link and its transmitter at most. -/
structure State.Turns (o : PortId) (s t : State) : Prop where
  port : ∀ q, q ≠ o → t.port q = s.port q
  stock : (t.port o).stock = (s.port o).stock
  waiting : (t.port o).monitor.waiting = (s.port o).monitor.waiting

section

variable {o : PortId} {s t : State} (h : s.Turns o t)
include h

theorem State.Turns.stocks (q : PortId) : (t.port q).stock = (s.port q).stock := by
  by_cases hq : q = o
  · rw [hq, h.stock]
  · rw [h.port q hq]

theorem State.Turns.serves {q : PortId} (hs : s.Serves q) (htx : TransmitterLaw (t.port q))
    (hsrc : (t.port q).tx.service.map (·.src) = (s.port q).tx.service.map (·.src)) : t.Serves q :=
  hs.of_kept htx hsrc (fun i c => (Port.queue_length_of_stock (h.stocks i) q c).ge)
    fun i => by rw [Port.copies_of_stock (h.stocks i)]

theorem State.Turns.serves_ne {q : PortId} (hq : q ≠ o) (hs : s.Serves q) : t.Serves q :=
  h.serves hs (h.port q hq ▸ hs.tx) (by rw [h.port q hq])

theorem State.Turns.entries (hs : ∀ p, ∀ e ∈ (s.port p).copies, CopyLaw e) (p : PortId) :
    ∀ e ∈ (t.port p).copies, CopyLaw e := Port.copies_of_stock (h.stocks p) ▸ hs p

theorem State.Turns.waitingLaw (hs : WaitingLaw s) : WaitingLaw t := by
  intro q
  have hw : (t.port q).monitor.waiting = (s.port q).monitor.waiting := by
    by_cases hq : q = o
    · rw [hq, h.waiting]
    · rw [h.port q hq]
  rw [hw, hs q, State.owed_congr fun i => Port.owes_of_stock (h.stocks i) q]

/-- The transmitter of one output changes, but not the cell that it has in service. -/
theorem State.Tallied.turns (hs : s.Tallied) (htx : TransmitterLaw (t.port o))
    (hsrc : (t.port o).tx.service.map (·.src) = (s.port o).tx.service.map (·.src)) : t.Tallied := by
  refine ⟨fun q => ?_, h.entries hs.entries, h.waitingLaw hs.waiting⟩
  by_cases hq : q = o
  · subst hq
    exact h.serves (hs.serves q) htx hsrc
  · exact h.serves_ne hq (hs.serves q)

end

/-- A transmitter changes as its output becomes unavailable, and is lawful once its cell in service is dropped (R126). -/
theorem State.Tallied.shut {s : State} {d : Event} {o : PortId} (hs : s.Tallied) (h : s.Turns o d.toState)
    (htx : TransmitterLaw { d.port o with tx := (d.port o).tx.dropCell }) : (d.outputUnavailable o).Tallied :=
  (Event.closeOutput_tallied (fun q hq => h.serves_ne hq (hs.serves q)) htx (h.entries hs.entries)
    (h.waitingLaw hs.waiting)).drainChecks _ _

theorem Event.modPort_turns {c : Event} {p : PortId} {f : Port → Port}
    (hstock : (f (c.port p)).stock = (c.port p).stock := by exact rfl)
    (hwaiting : (f (c.port p)).monitor.waiting = (c.port p).monitor.waiting := by exact rfl) :
    c.Turns p (c.modPort p f).toState where
  port _ hq := Event.modPort_port_ne _ _ hq
  stock := (congrArg Port.stock (Event.modPort_port_self c p f)).trans hstock
  waiting := (congrArg (·.monitor.waiting) (Event.modPort_port_self c p f)).trans hwaiting

/-- A change of one port that keeps its entries, its waiting count and the cell in service of its output. -/
theorem State.Tallied.modPort {c : Event} (hc : c.Tallied) {p : PortId} {f : Port → Port}
    (htx : TransmitterLaw (f (c.port p)))
    (hsrc : (f (c.port p)).tx.service.map (·.src) = (c.port p).tx.service.map (·.src) := by exact rfl)
    (hstock : (f (c.port p)).stock = (c.port p).stock := by exact rfl)
    (hwaiting : (f (c.port p)).monitor.waiting = (c.port p).monitor.waiting := by exact rfl) :
    (c.modPort p f).Tallied := by
  have hport : (c.modPort p f).toState.port p = f (c.port p) := Event.modPort_port_self c p f
  exact State.Tallied.turns (Event.modPort_turns hstock hwaiting) hc (by rwa [hport]) (by rw [hport]; exact hsrc)

/-- A link that leaves UP (R20, R123). -/
theorem State.Tallied.enterDown {c : Event} (hc : c.Tallied) (p : PortId) : (c.enterDown p).Tallied := by
  unfold Event.enterDown
  split
  · unfold Event.leaveUp
    have hturns : c.Turns p (((c.modPort p Port.leaveUp).raise (.link p false)).raiseIf ((c.port p).tx.state == .stalled)
        (.stall p false)).toState := by
      rw [Event.raiseIf_toState]
      exact Event.modPort_turns
    refine hc.shut hturns ?_
    rw [Event.raiseIf_port, Event.raise_port, Event.modPort_port_self,
      Transmitter.dropCell_of_none (show (c.port p).leaveUp.tx.service = none from rfl)]
    refine (Port.leaveUp_steady (c.port p).mended).transmitterLaw ?_ (hc.serves p).tx
    have hlink (x : Port) : x.leaveUp.tx.onLink = none := by
      show x.tx.cutOff.onLink = none
      rw [Transmitter.cutOff_eq]
      split
      · rfl
      · simp
    simp only [Port.stage, hlink]
    rfl
  · next hu =>
    exact hc.event (Event.modPort_still (Port.still_rx (by simpa [Receiver.inDown, Port.isUp] using hu)))

/-- A hold timer that expires (R134). -/
theorem State.Tallied.stalls {s : State} (hs : s.Tallied) {o : PortId} (hh : (s.port o).tx.state = .held) :
    ((((Event.start s).modPort o fun x =>
      { x with tx := { x.tx with state := .stalled, timer := none } }).raise (.stall o true)).outputUnavailable o).Tallied := by
  refine hs.shut (Event.modPort_turns (c := Event.start s) (p := o)
    (f := fun x => { x with tx := { x.tx with state := .stalled, timer := none } })) ?_
  rw [Event.raise_port, Event.modPort_port_self]
  refine (Port.stalled_steady (x := (s.port o).mended) hh).transmitterLaw ?_ (hs.serves o).tx
  have hcell := (hs.serves o).tx.no_cell (by simp [hh])
  rw [Transmitter.dropCell_of_no_cell (t := { (s.port o).mended.tx with state := .stalled, timer := none }) hcell (by simp)]
  rw [Transmitter.dropCell_of_no_cell (by exact hcell) (by simp)]
  rfl

end Sys2Proof.Machine

namespace Sys2Proof.Machine

open Sys2Proof Sys2Proof.Safety

/-! ### Picks (R90, R91, R102) -/

/-- A copy that a pick names waits in its input (R90, R103, R107). -/
theorem State.nextPick_candidate {s : State} {o : PortId} {k : Pick} (h : s.nextPick o = some k) (hk : k.offer = .copy) :
    ∃ e ∈ (s.port k.input).copies, e.waitsFor o = true := by
  have waits {i : PortId} {t : Turn} (hi : s.eligible o i = true) (ht : s.offer o i t = .copy) :
      ∃ e ∈ (s.port i).copies, e.waitsFor o = true := by
    have hoffer := State.offers_offer hi t
    rw [ht] at hoffer
    obtain ⟨e, he⟩ := Option.ne_none_iff_exists'.1 hoffer.2.1
    exact ⟨e, List.mem_of_find?_eq_some he, by simpa using List.find?_some he⟩
  have allowance {a : Arbiter} (h : s.allowancePick o a = some k) : ∃ e ∈ (s.port k.input).copies, e.waitsFor o = true := by
    obtain ⟨i, hi, rfl⟩ := Option.map_eq_some_iff.1 h
    have hi : (s.eligible o i && decide (0 < a.allowance.get i)) = true := by simpa using List.find?_some hi
    exact waits (Bool.and_eq_true_iff.1 hi).1 hk
  have spare {a : Arbiter} (h : s.sparePick o a = some k) : ∃ e ∈ (s.port k.input).copies, e.waitsFor o = true := by
    obtain ⟨i, hi, rfl⟩ := Option.map_eq_some_iff.1 h
    exact waits (List.find?_some hi) hk
  unfold State.nextPick at h
  split at h
  · next he =>
    cases h
    unfold State.expressPick at he
    split at he
    · obtain ⟨i, -, rfl⟩ := Option.map_eq_some_iff.1 he
      cases hk
    · cases he
  · unfold State.bulkPick at h
    split at h
    · next ha => cases h; exact allowance ha
    · split at h
      · split at h
        · next ha => cases h; exact allowance ha
        · exact spare h
      · exact spare h

/-- The check of R102 finds nothing to pick, or leaves the ports as the pick says. -/
theorem Event.pickCheck_cases (c : Event) (o : PortId) :
    c.pickCheck o = c ∨ ∃ k, (c.port o).tx.state = .idle ∧ c.nextPick o = some k ∧ ∀ q,
      (c.pickCheck o).port q =
        let x := c.port q
        { x with
          copies := if q = k.input ∧ k.offer = .copy then pickCopy o x.copies else x.copies
          arbiter := if q = o then k.arbiter else x.arbiter
          tx := if q = o then { x.tx with
            state := .sending, service := some { src := k.source, aborted := false, started := false } } else x.tx } := by
  by_cases hi : (c.port o).tx.state = .idle ∧ (c.port o).available = true
  · cases hk : c.nextPick o with
    | none => exact .inl (by simp [Event.pickCheck, hk])
    | some k =>
      have hcopies (q : PortId) :
          (if k.offer = .copy then c.modPort k.input fun x => { x with copies := pickCopy o x.copies } else c).port q =
            { c.port q with
              copies := if q = k.input ∧ k.offer = .copy then pickCopy o (c.port q).copies else (c.port q).copies } := by
        by_cases hc : k.offer = .copy
        · rw [if_pos hc, Event.modPort_port]
          by_cases hq : q = k.input
          · rw [if_pos hq, if_pos ⟨hq, hc⟩]
          · rw [if_neg hq, if_neg fun h => hq h.1]
        · rw [if_neg hc, if_neg fun h => hc h.2]
      refine .inr ⟨k, hi.1, rfl, fun q => ?_⟩
      simp only [Event.pickCheck, if_pos hi, hk]
      rw [Event.modPort_port, hcopies]
      by_cases hq : q = o
      · simp only [if_pos hq]
      · simp only [if_neg hq]
  · exact .inl (by rw [Event.pickCheck, if_neg hi])

theorem State.Tallied.pickCheck {c : Event} (hc : c.Tallied) (o : PortId) : (c.pickCheck o).Tallied := by
  rcases c.pickCheck_cases o with h | ⟨k, hidle, hk, hport⟩
  · rwa [h]
  have hqueue (i q : PortId) (d : Class) : ((c.pickCheck o).port i).queue q d = (c.port i).queue q d := by
    rw [hport]; rfl
  have hcopies (i : PortId) : ((c.pickCheck o).port i).copies =
      if i = k.input ∧ k.offer = .copy then pickCopy o (c.port i).copies else (c.port i).copies := by rw [hport]
  have hremaining (i q : PortId) : ((c.pickCheck o).port i).copies.countP (fun e => e.remaining.has q) =
      (c.port i).copies.countP fun e => e.remaining.has q := by
    rw [hcopies]
    split
    · exact countP_pickCopy fun _ => rfl
    · rfl
  refine ⟨fun q => ?_, fun i => (c.pickCheck_calm o i).toEntries.copyLaw (hc.entries i), fun q => ?_⟩
  · by_cases hq : q = o
    · subst hq
      have htx := (hc.serves q).tx
      have hnone : (c.port q).tx.service = none := htx.no_service (by simp [hidle]) (by simp [hidle])
      have hself : ((c.pickCheck q).port q).tx.service = some { src := k.source, aborted := false, started := false } := by
        rw [hport]; simp
      refine ⟨?_, ?_, fun i => ?_⟩
      · refine (Port.serve_steady (x := (c.port q).mended) (v := { src := k.source, aborted := false, started := false })
          (by simp [Port.mended, hidle]) (by simp [Port.mended, hidle]) rfl rfl rfl).transmitterLaw ?_ htx
        show ((c.pickCheck q).port q).stage = _
        rw [hport]
        simp [Port.stage, Port.mended, Port.isUp, htx.no_timer (by simp [hidle])]
      · rw [headLaw_iff]
        intro v hv i d hd
        obtain rfl := Option.some.inj (hself.symm.trans hv)
        rw [Port.occupancy_unicast, ne_eq, List.length_eq_zero_iff]
        exact fun h => State.nextPick_waits hk i d hd ((hqueue i q d).symm.trans h)
      · have hzero := (hc.serves q).copies i
        rw [hnone] at hzero
        show ((c.pickCheck q).port i).copies.countP _ = if ((c.pickCheck q).port q).tx.service.map _ = _ then _ else _
        rw [hself, hcopies]
        unfold Pick.source
        cases ho : k.offer
        case copy =>
          by_cases hi : i = k.input
          · subst hi
            simp [countP_pickCopy_inService (State.nextPick_candidate hk ho), hzero]
          · simp [hi, hzero, Ne.symm hi]
        all_goals simpa using hzero
    · have htx : ((c.pickCheck o).port q).tx = (c.port q).tx := by rw [hport]; simp [hq]
      refine (hc.serves q).of_kept (transmitterLaw_of_stage ?_ (hc.serves q).tx) (congrArg (fun t => t.service.map (·.src)) htx)
        (fun i d => (congrArg List.length (hqueue i q d)).ge) fun i => ?_
      · show ((c.pickCheck o).port q).stage = _
        rw [hport]
        simp [Port.stage, Port.isUp, hq]
      · show ((c.pickCheck o).port i).copies.countP _ = _
        rw [hcopies]
        split
        · exact countP_pickCopy fun e => by simp [hq]
        · rfl
  · have hw : ((c.pickCheck o).port q).monitor = (c.port q).monitor := by rw [hport]
    have howes (i : PortId) : ((c.pickCheck o).port i).owes q = (c.port i).owes q := by
      unfold Port.owes
      rw [hqueue, hqueue, hremaining]
    show ((c.pickCheck o).port q).monitor.waiting = (c.pickCheck o).owed q
    rw [hw, State.owed_congr howes]
    exact hc.waiting q

theorem State.Tallied.foldl_pickCheck {c : Event} (hc : c.Tallied) (l : List PortId) :
    (l.foldl (fun c o => c.pickCheck o) c).Tallied := by
  induction l generalizing c with
  | nil => exact hc
  | cons o l ih => exact ih (hc.pickCheck o)

end Sys2Proof.Machine

namespace Sys2Proof.Machine

open Sys2Proof Sys2Proof.Safety

/-! ### Departures (R47, R93, R94, R125, R140) -/

theorem Transmitter.service_of_sendingCell {t : Transmitter} {src : Source} (h : t.sendingCell = some src) :
    t.service.map (·.src) = some src := by
  unfold Transmitter.sendingCell at h
  split at h
  · next v _ hv =>
    split at h
    · rw [hv]; exact h
    · cases h
  · cases h

/-- A cell or copy in service is held by its input (R46, R87). -/
theorem State.Serves.served {s : State} {o : PortId} {src : Source} (hs : s.Serves o)
    (hsrc : (s.port o).tx.service.map (·.src) = some src) :
    (∀ i c, src = .cell i c → (s.port i).queue o c ≠ []) ∧
      ∀ i, src = .copy i → ∃ e ∈ (s.port i).copies, e.inService.has o = true := by
  constructor
  · rintro i c rfl
    obtain ⟨v, hv, hvs⟩ := Option.map_eq_some_iff.1 hsrc
    have := (headLaw_iff _ _).1 hs.head v hv i c hvs
    rwa [Port.occupancy_unicast, ne_eq, List.length_eq_zero_iff] at this
  · rintro i rfl
    have hcount := hs.copies i
    rw [if_pos hsrc] at hcount
    exact List.countP_pos_iff.1 (by omega)

/-- What departs for output `o` was one of the cells and copies that waited for it (R139). -/
theorem Port.depart_owes {o : PortId} {src : Source} {x : Port} (hlaw : ∀ e ∈ x.copies, CopyLaw e)
    (hcell : ∀ i c, src = .cell i c → x.queue o c ≠ [])
    (hcopy : ∀ i, src = .copy i → ∃ e ∈ x.copies, e.inService.has o = true) (q : PortId) :
    (x.depart o src).owes q + (if q = o then 1 else 0) = x.owes q := by
  cases src with
  | cell i c =>
    show ((x.putQueue o c _).queue q _).length + ((x.putQueue o c _).queue q _).length + x.copies.countP _ + _ = _
    rw [Port.putQueue_queue, Port.putQueue_queue]
    have hpos := List.length_pos_iff.2 (hcell i c rfl)
    unfold Port.owes
    by_cases hq : q = o
    · subst hq
      cases c <;> simp <;> omega
    · simp [hq]
  | copy i =>
    show (x.queue q _).length + (x.queue q _).length + (departCopy o x.copies).countP (fun e => e.remaining.has q) + _ = _
    unfold Port.owes
    by_cases hq : q = o
    · subst hq
      have := countP_departCopy_served (P := fun e => e.remaining.has q) (fun e => by simp [CopyEntry.lose])
        (fun e he => (hlaw e he).2.1 q) (hcopy i rfl)
      rw [if_pos rfl]
      omega
    · rw [countP_departCopy (fun e => by simp [CopyEntry.lose, hq]) fun e _ h => ⟨q, hq, h⟩, if_neg hq, Nat.add_zero]

/-- The queues toward other outputs are as long as they were (R47). -/
theorem Port.depart_queue (src : Source) (x : Port) {o q : PortId} (hq : q ≠ o) (d : Class) :
    (x.depart o src).queue q d = x.queue q d := by
  cases src with
  | cell i c => exact (Port.putQueue_queue _ _ _ _ _ _).trans (if_neg fun h => hq h.1)
  | copy i => rfl

/-- The entries that hold other outputs in service are as many (R93). -/
theorem Port.depart_inService (src : Source) {x : Port} {o q : PortId} (hq : q ≠ o) (hlaw : ∀ e ∈ x.copies, CopyLaw e) :
    ((x.depart o src).copies.countP fun e => e.inService.has q) = x.copies.countP fun e => e.inService.has q := by
  cases src with
  | cell i c => rfl
  | copy i => exact countP_departCopy (fun e => by simp [CopyEntry.lose, hq]) fun e he h => ⟨q, hq, (hlaw e he).2.1 q h⟩

/-- What of the ports the laws see as the cell in service of `o` departs (R125, R140). -/
structure State.Departs (o : PortId) (src : Source) (s t : State) : Prop where
  stage : ∀ q, q ≠ o → (t.port q).stage = (s.port q).stage
  self : (t.port o).stage = (s.port o).sent.stage
  stock : ∀ q, (t.port q).stock = if q = src.input then ((s.port q).depart o src).stock else (s.port q).stock
  waiting : ∀ q, (t.port q).monitor.waiting =
    if q = o then (s.port q).monitor.waiting - 1 else (s.port q).monitor.waiting

theorem State.Tallied.departs {s t : State} {o : PortId} {src : Source} (hs : s.Tallied)
    (hsending : (s.port o).tx.sendingCell = some src) (h : s.Departs o src t) : t.Tallied := by
  have hsrc := Transmitter.service_of_sendingCell hsending
  obtain ⟨hcell, hcopy⟩ := (hs.serves o).served hsrc
  have hcopies (i : PortId) : (t.port i).copies =
      if i = src.input then ((s.port i).depart o src).copies else (s.port i).copies := by
    refine (congrArg Prod.snd (h.stock i)).trans ?_
    split <;> rfl
  have howes (q : PortId) : (t.port src.input).owes q + (if q = o then 1 else 0) = (s.port src.input).owes q := by
    rw [Port.owes_of_stock ((h.stock src.input).trans (if_pos rfl))]
    refine Port.depart_owes (hs.entries _) ?_ ?_ q
    · rintro i c rfl; exact hcell i c rfl
    · rintro i rfl; exact hcopy i rfl
  have hnone : (t.port o).tx.service = none := Port.service_of_stage h.self
  refine ⟨fun q => ?_, fun i => ?_, fun q => ?_⟩
  · by_cases hq : q = o
    · subst hq
      refine .of_none (transmitterLaw_of_stage h.self ?_) hnone fun i => ?_
      · refine (Port.sent_steady (x := (s.port q).mended) hsending).transmitterLaw ?_ (hs.serves q).tx
        simp [Port.stage, Port.sent, Port.count, Port.mended, Port.isUp]
      · have hcount := (hs.serves q).copies i
        rw [hsrc] at hcount
        rw [hcopies]
        split
        · next hi =>
          subst hi
          cases src with
          | cell i c => exact hcount.trans (if_neg (by simp))
          | copy i =>
            have hleft := countP_departCopy_served (P := fun e => e.inService.has q) (fun e => by simp [CopyEntry.lose])
              (fun e _ h => h) (hcopy i rfl)
            exact Nat.succ.inj (hleft.trans (hcount.trans (if_pos rfl)))
        · next hi =>
          rw [hcount, if_neg]
          rintro h
          cases h
          exact hi rfl
    · refine (hs.serves q).of_kept (transmitterLaw_of_stage (h.stage q hq) (hs.serves q).tx)
        (congrArg _ (Port.service_of_stage (h.stage q hq))) (fun i d => ?_) fun i => ?_
      · rw [show ((t.port i).queue q d).length = _ from congrFun₂ (congrArg Prod.fst (h.stock i)) q d]
        split
        · exact (congrArg List.length (Port.depart_queue src (s.port i) hq d)).ge
        · exact le_rfl
      · rw [hcopies]
        split
        · exact Port.depart_inService src hq (hs.entries i)
        · rfl
  · rw [hcopies]
    split
    · exact (Port.depart_calm o src (s.port i)).toEntries.copyLaw (hs.entries i)
    · exact hs.entries i
  · have hsum := State.owed_add_owes (s := s) (t := t) (p := src.input) (o := q) fun i hi =>
      Port.owes_of_stock ((h.stock i).trans (if_neg hi)) q
    have hleft := howes q
    have hwas : (s.port q).monitor.waiting = s.owed q := hs.waiting q
    show (t.port q).monitor.waiting = t.owed q
    rw [h.waiting]
    by_cases hq : q = o
    · simp only [if_pos hq] at hleft ⊢
      omega
    · simp only [if_neg hq] at hleft ⊢
      omega

theorem State.Tallied.depart {c : Event} (hc : c.Tallied) {o : PortId} {src : Source}
    (hsending : (c.port o).tx.sendingCell = some src) : (c.depart o src).Tallied := by
  unfold Event.depart
  rw [Event.complete_parts]
  refine (((State.Tallied.departs hc hsending ?_).event (Event.meterDeparture_still _ _ _)).drainChecks _ _).pickCheck o
  generalize (if (c.departing o src).2 then 1 else 0) = n
  -- what the laws see of a port once the cell has left
  have left (q : PortId) : (((c.modPort o Port.sent).leaves o src n).port q).stage =
        (if q = o then (c.port q).sent else c.port q).stage ∧
      (((c.modPort o Port.sent).leaves o src n).port q).stock =
        (if q = src.input then ((c.port q).depart o src).stock else (c.port q).stock) ∧
      (((c.modPort o Port.sent).leaves o src n).port q).monitor.waiting = (c.port q).monitor.waiting := by
    have hfree := Event.free_still ((c.modPort o Port.sent).modPort src.input (Port.depart o src)) src.input (src.key o) n q
    rw [Event.modPort_port, Event.modPort_port] at hfree
    refine ⟨hfree.stage.trans ?_, hfree.stock.trans ?_, hfree.waiting.trans ?_⟩
    all_goals cases src <;> split <;> split <;> rfl
  generalize (c.modPort o Port.sent).leaves o src n = e at left
  have sees (q : PortId) := e.setWaiting_sees o q ((e.port o).monitor.waiting - 1)
  refine ⟨fun q hq => ?_, ?_, fun q => ?_, fun q => ?_⟩
  · exact ((sees q).1.trans (left q).1).trans (by rw [if_neg hq])
  · exact ((sees o).1.trans (left o).1).trans (by rw [if_pos rfl])
  · exact (sees q).2.1.trans (left q).2.1
  · refine (sees q).2.2.trans ?_
    rw [(left o).2.2, (left q).2.2]
    split
    · next hq => rw [hq]
    · rfl

/-! ### Entries that join (R28, R29, R30, R140) -/

/-- An entry joins input `p`, which owes each output `n` more for it, and the outputs take note. -/
theorem State.Tallied.joins {s t : State} {p : PortId} {n : PortId → Nat} (hs : s.Tallied)
    (hstage : ∀ q, (t.port q).stage = (s.port q).stage) (hstock : ∀ q, q ≠ p → (t.port q).stock = (s.port q).stock)
    (hqueue : ∀ q d, ((s.port p).queue q d).length ≤ ((t.port p).queue q d).length)
    (hserved : ∀ q, ((t.port p).copies.countP fun e => e.inService.has q) =
      (s.port p).copies.countP fun e => e.inService.has q)
    (hentries : ∀ e ∈ (t.port p).copies, CopyLaw e) (howes : ∀ q, (t.port p).owes q = (s.port p).owes q + n q)
    (hwaiting : ∀ q, (t.port q).monitor.waiting = (s.port q).monitor.waiting + n q) : t.Tallied := by
  refine ⟨fun q => ?_, fun i => ?_, fun q => ?_⟩
  · refine (hs.serves q).of_kept (transmitterLaw_of_stage (hstage q) (hs.serves q).tx)
      (congrArg _ (Port.service_of_stage (hstage q))) (fun i d => ?_) fun i => ?_
    all_goals by_cases hi : i = p
    · exact hi ▸ hqueue q d
    · exact (Port.queue_length_of_stock (hstock i hi) q d).ge
    · exact hi ▸ hserved q
    · rw [Port.copies_of_stock (hstock i hi)]
  · by_cases hi : i = p
    · exact hi ▸ hentries
    · exact Port.copies_of_stock (hstock i hi) ▸ hs.entries i
  · have hsum := State.owed_add_owes (s := s) (t := t) (p := p) (o := q) fun i hi => Port.owes_of_stock (hstock i hi) q
    have hmore := howes q
    have hwas : (s.port q).monitor.waiting = s.owed q := hs.waiting q
    show (t.port q).monitor.waiting = t.owed q
    rw [hwaiting]
    omega

/-- The waiting counts of several outputs rise, each once (R30, R140). -/
theorem Event.foldl_setWaiting_sees {l : List PortId} (hl : l.Nodup) (c : Event) (q : PortId) :
    let d := l.foldl (fun c o => c.setWaiting o ((c.port o).monitor.waiting + 1)) c
    (d.port q).stage = (c.port q).stage ∧ (d.port q).stock = (c.port q).stock ∧
      (d.port q).monitor.waiting = (c.port q).monitor.waiting + if q ∈ l then 1 else 0 := by
  induction l generalizing c with
  | nil => exact ⟨rfl, rfl, rfl⟩
  | cons o l ih =>
    obtain ⟨ho, hl⟩ := List.nodup_cons.1 hl
    obtain ⟨hstage, hstock, hwaiting⟩ := c.setWaiting_sees o q ((c.port o).monitor.waiting + 1)
    obtain ⟨istage, istock, iwaiting⟩ := ih hl (c.setWaiting o ((c.port o).monitor.waiting + 1))
    refine ⟨istage.trans hstage, istock.trans hstock, iwaiting.trans ?_⟩
    rw [hwaiting]
    by_cases hq : q = o
    · subst hq; simp [ho]
    · simp [hq]

/-- A unicast cell is accepted (R28, R30). -/
theorem State.Tallied.acceptCell {c : Event} (hc : c.Tallied) (p d : PortId) (h : Header) (payload : List Byte) :
    (c.acceptCell p d h payload).Tallied := by
  have hport (q : PortId) : ((c.modPort p (Port.joinCell · d (h.cellEntry payload))).count p .accepted).port q =
      if q = p then ((c.port q).joinCell d (h.cellEntry payload)).count .accepted 1 else c.port q := by
    unfold Event.count
    rw [Event.modPort_modPort, Event.modPort_port]
  have hqueue (q : PortId) (b : Class) : ((c.port p).joinCell d (h.cellEntry payload)).queue q b =
      if q = d ∧ b = h.cls then (c.port p).queue d h.cls ++ [h.cellEntry payload] else (c.port p).queue q b :=
    Port.putQueue_queue _ _ _ _ _ _
  rw [Event.acceptCell_eq]
  generalize (c.modPort p (Port.joinCell · d (h.cellEntry payload))).count p .accepted = e at hport
  have sees (q : PortId) := e.setWaiting_sees d q ((e.port d).monitor.waiting + 1)
  have hself : (e.port p).stock = ((c.port p).joinCell d (h.cellEntry payload)).stock := by rw [hport, if_pos rfl]; rfl
  refine (State.Tallied.joins (p := p) (n := fun q => if q = d then 1 else 0) hc (fun q => (sees q).1.trans ?_)
    (fun q hq => (sees q).2.1.trans (by rw [hport, if_neg hq])) (fun q b => ?_) (fun q => ?_) ?_ (fun q => ?_)
    fun q => (sees q).2.2.trans ?_).pickCheck d
  · rw [hport]; split <;> rfl
  · rw [Port.queue_length_of_stock ((sees p).2.1.trans hself), hqueue]
    split
    · next hq => rw [hq.1, hq.2]; simp
    · exact le_rfl
  · rw [Port.copies_of_stock ((sees p).2.1.trans hself)]; rfl
  · rw [Port.copies_of_stock ((sees p).2.1.trans hself)]; exact hc.entries p
  · rw [Port.owes_of_stock ((sees p).2.1.trans hself)]
    unfold Port.owes
    rw [hqueue, hqueue]
    show _ + (c.port p).copies.countP _ = _
    by_cases hq : q = d
    · subst hq
      cases h.cls <;> simp <;> omega
    · simp [hq]
  · rw [hport, hport]
    split
    · next hq => rw [hq]; split <;> rfl
    · split <;> rfl

/-- A multicast cell is accepted (R29, R30). -/
theorem State.Tallied.acceptCopies {c : Event} (hc : c.Tallied) (p : PortId) (h : Header) {payload : List Byte}
    (hp : payload.length = 72) {remaining : OutSet} (hne : remaining ≠ OutSet.empty) :
    (c.acceptCopies p h payload remaining).Tallied := by
  have hport (q : PortId) : ((c.modPort p (Port.joinCopies · (h.copyEntry payload remaining))).count p .accepted).port q =
      if q = p then ((c.port q).joinCopies (h.copyEntry payload remaining)).count .accepted 1 else c.port q := by
    unfold Event.count
    rw [Event.modPort_modPort, Event.modPort_port]
  rw [Event.acceptCopies_eq]
  generalize (c.modPort p (Port.joinCopies · (h.copyEntry payload remaining))).count p .accepted = e at hport
  have sees (q : PortId) := e.foldl_setWaiting_sees remaining.nodup_toList q
  have hself : (e.port p).stock = ((c.port p).joinCopies (h.copyEntry payload remaining)).stock := by
    rw [hport, if_pos rfl]; rfl
  have hcopies := Port.copies_of_stock ((sees p).2.1.trans hself)
  refine (State.Tallied.joins (p := p) (n := fun q => if remaining.has q then 1 else 0) hc
    (fun q => (sees q).1.trans ?_) (fun q hq => (sees q).2.1.trans (by rw [hport, if_neg hq])) (fun q b => ?_)
    (fun q => ?_) ?_ (fun q => ?_) fun q => (sees q).2.2.trans ?_).foldl_pickCheck _
  · rw [hport]; split <;> rfl
  · exact (Port.queue_length_of_stock ((sees p).2.1.trans hself) q b).ge
  · rw [hcopies]
    simp [Port.joinCopies, Header.copyEntry]
  · rw [hcopies]
    intro a ha
    rcases List.mem_append.1 ha with ha | ha
    · exact hc.entries p a ha
    · rw [List.mem_singleton.1 ha]
      exact ⟨hne, by simp [Header.copyEntry], hp⟩
  · rw [Port.owes_of_stock ((sees p).2.1.trans hself)]
    show _ + ((c.port p).copies ++ [h.copyEntry payload remaining]).countP _ = _
    rw [List.countP_append]
    simp only [Port.owes, Header.copyEntry, List.countP_singleton, Nat.add_assoc]
    rfl
  · rw [hport]
    simp only [OutSet.mem_toList]
    split <;> rfl

end Sys2Proof.Machine

namespace Sys2Proof.Machine

open Sys2Proof Sys2Proof.Safety

/-! ### Classification (R26) -/

theorem State.Tallied.place {c : Event} (hc : c.Tallied) (p : PortId) (h : Header) {payload : List Byte}
    (hp : payload.length = 72) : (c.place p h payload).Tallied := by
  have looked (g : Table GroupSet 256) : State.Tallied ({ c with groups := g } : Event).toState := hc.event c.still_refl
  unfold Event.place
  split
  · dsimp only
    split
    · exact hc.event (c.discardCharged_still _ _ _)
    · split
      · exact (looked _).event (Event.discardCharged_still _ _ _ _)
      · next hne => exact (looked _).acceptCopies p h hp hne
  · split
    · dsimp only
      split
      · exact hc.acceptCell _ _ _ _
      · exact hc.event (c.discardCharged_still _ _ _)
    · exact hc

theorem State.Tallied.classify {c : Event} (hc : c.Tallied) (p : PortId) (data : List Byte) (closed : CellEnd) :
    (c.classify p data closed).Tallied := by
  have fault (k : Counter) (f : FaultKind) : c.Ports Port.Still ((c.discard p k).guardFault p f) :=
    (c.count_still p k).still_trans (Event.guardFault_still _ _ _)
  have issued (k : Counter) (f : FaultKind) : c.Ports Port.Still (((c.discard p k).guardFault p f).modPort p Port.issue) :=
    (fault k f).still_trans Event.modPort_unseen
  have charged (k : Key) : (c.charge p k).Tallied := hc.event Event.modPort_unseen
  unfold Event.classify
  dsimp only
  split
  · exact hc.event (c.count_still _ _)
  split
  · exact hc.event (c.count_still _ _)
  split
  · exact hc.event (issued _ _)
  next hh =>
  split
  · exact hc.event (c.count_still _ _)
  split
  · exact hc.event (issued _ _)
  split
  · exact hc.event (fault _ _)
  split
  · exact (charged _).event (Event.discardCharged_still _ _ _ _)
  · exact (charged _).place p _ (readPayload_length (by simpa using hh))

/-! ### The link and the administration of a port (R20, R21, R159, R160, R161, R165) -/

theorem State.Tallied.enterUp {c : Event} (hc : c.Tallied) {p : PortId} (hl : (c.port p).rx.link ≠ .up) (good : Nat) :
    (c.enterUp p good).Tallied := by
  have up : (c.modPort p fun x => { x with rx := { x.rx with link := .up, good := good, bad := 0 }, tx := x.tx.linkUp }).Tallied :=
    hc.modPort ((Port.linkUp_steady (x := (c.port p).mended) hl good).transmitterLaw rfl (hc.serves p).tx)
  unfold Event.enterUp
  dsimp only
  refine State.Tallied.pickCheck (State.Tallied.event ?_ (Event.raise_still _ _)) p
  split
  · exact up.event Event.modPort_unseen
  · exact up

theorem State.Tallied.resetPort {c : Event} (hc : c.Tallied) (p : PortId) : (c.resetPort p).Tallied :=
  (hc.enterDown p).event ((Event.clearGuard_still _ _).still_trans Event.modPort_unseen)

theorem State.Tallied.enable {c : Event} (hc : c.Tallied) (p : PortId) : (c.enable p).1.Tallied := by
  have enabled : (c.modPort p fun x => { x with admin := .enabled }).Tallied := hc.event Event.modPort_unseen
  unfold Event.enable
  dsimp only
  split
  · exact hc
  · dsimp only
    split
    · exact enabled.event Event.modPort_unseen
    · exact enabled
  · refine State.Tallied.pickCheck ?_ p
    split
    · exact enabled.event Event.modPort_unseen
    · exact enabled

theorem State.Tallied.drain {c : Event} (hc : c.Tallied) (p : PortId) : (c.drain p).Tallied := by
  unfold Event.drain
  split
  · exact (hc.event Event.modPort_unseen).drainChecks _ _
  all_goals exact hc

theorem State.Tallied.disable {c : Event} (hc : c.Tallied) (p : PortId) : (c.disable p).Tallied := by
  have disabled : ((c.modPort p fun x => { x.withdraw with admin := .disabled }).outputUnavailable p).Tallied :=
    State.Tallied.outputUnavailable (hc.event Event.modPort_unseen) p
  unfold Event.disable
  split
  · exact disabled
  · exact disabled
  · exact hc

/-! ### HOLD and RELEASE (R132, R133) -/

theorem State.Tallied.toHeld {c : Event} (hc : c.Tallied) {p : PortId} (hd : (c.port p).tx.state ≠ .down) :
    (c.modPort p fun x => { x with tx := x.tx.toHeld }).Tallied := by
  refine hc.modPort ((Port.toHeld_steady (x := (c.port p).mended) hd).transmitterLaw ?_ (hc.serves p).tx) ?_
  · have hcell (t : Transmitter) : t.toHeld.onLink.any isCell = false := t.abortCell_no_cell
    simp only [Port.stage, hcell]
    rfl
  · show (Option.map _ (c.port p).tx.service).map _ = _
    rw [Option.map_map]
    rfl

theorem execHold_tallied (p : PortId) {s : State} (hs : s.Tallied) : Ends State.Tallied (execHold p s) := by
  have hs : (Event.start s).Tallied := hs
  unfold execHold
  split
  · split
    · next hst =>
      have htx := (Event.start s).markHead_tx p p
      exact .next (State.Tallied.toHeld (hs.event (Event.markHead_still _ p)) (by rw [htx]; simp [hst])).finish
    · next hst => exact .next (hs.toHeld (by simp [hst])).finish
    all_goals exact .next hs
  · exact .next hs

/-- A transmitter without a cell goes to IDLE and checks for a pick (R133). -/
theorem State.Tallied.toIdle {c : Event} (hc : c.Tallied) {p : PortId} (hd : (c.port p).tx.state ≠ .down)
    (hs : (c.port p).tx.state ≠ .sending) (hn : (c.port p).tx.service = none) :
    (c.modPort p fun x => { x with tx := { x.tx with state := .idle, timer := none } }).Tallied :=
  hc.modPort ((Port.toIdle_steady (x := (c.port p).mended) hd hs hn).transmitterLaw rfl (hc.serves p).tx)

theorem execRelease_tallied (p : PortId) {s : State} (hs : s.Tallied) : Ends State.Tallied (execRelease p s) := by
  have hs : (Event.start s).Tallied := hs
  have htx : TransmitterLaw (s.port p) := (hs.serves p).tx
  unfold execRelease
  split
  · split
    · next hst =>
      split
      · next hv =>
        obtain ⟨v, hv⟩ := Option.isSome_iff_exists.1 hv
        refine .next (hs.modPort ((Port.serve_steady (x := (s.port p).mended)
          (v := { v with aborted := false, started := false }) (by simp [Port.mended, hst]) (by simp [Port.mended, hst])
          rfl rfl rfl).transmitterLaw ?_ htx) ?_).finish
        · simp [Port.stage, Port.mended, Port.isUp, Transmitter.restart, hv]
        · simp [Transmitter.restart, hv]
      · next hv =>
        exact .next ((hs.toIdle (by simp [hst]) (by simp [hst]) (by simpa using hv)).pickCheck p).finish
    · next hst =>
      have hidle : ((Event.start s).modPort p fun x => { x with tx := { x.tx with state := .idle } }).Tallied := by
        refine hs.modPort ((Port.toIdle_steady (x := (s.port p).mended) (by simp [Port.mended, hst])
          (by simp [Port.mended, hst]) (htx.no_service (by simp [hst]) (by simp [hst]))).transmitterLaw ?_ htx)
        simp [Port.stage, Port.mended, Port.isUp, htx.no_timer (by simp [hst])]
      exact .next (State.Tallied.pickCheck (hidle.event (Event.raise_still _ _)) p).finish
    all_goals exact .next hs
  · exact .next hs

/-! ### The unit boundary (R127, R128) -/

/-- A word that is taken goes on a link without a cell (R127). -/
theorem Port.takeWord_still {map : OutSet} {x y : Port} (hl : x.tx.onLink = none) (h : x.takeWord map = some y) :
    x.Still y := by
  have word {a : Account} {t : Transmitter} (ht : (t.state, t.service, t.timer, t.onLink.any isCell) =
      (x.tx.state, x.tx.service, x.tx.timer, false)) : x.Still { x with account := a, tx := t } := by
    refine ⟨?_, rfl, rfl⟩
    simp only [Prod.mk.injEq] at ht
    obtain ⟨hstate, hservice, htimer, hcell⟩ := ht
    simp [Port.stage, Port.isUp, hl, hstate, hservice, htimer, hcell]
  unfold Port.takeWord at h
  split at h
  · obtain ⟨e, -, rfl⟩ := Option.map_eq_some_iff.1 h
    exact word rfl
  split at h
  · cases h
    exact word rfl
  split at h
  · cases h
    exact word rfl
  · cases h

/-- At a boundary the cell that waits for its start goes on the link, or a unit that is no cell (R127). -/
theorem State.nextUnit_cases {s : State} {o : PortId} {x : Port} (hl : x.tx.onLink = none) :
    x.Still (s.nextUnit o x) ∨ ∃ u, s.waitingCell o = some u ∧ s.nextUnit o x = x.startCell u := by
  unfold State.nextUnit
  dsimp only
  split
  · exact .inl ⟨by simp [Port.stage, Port.isUp, hl, isCell], rfl, rfl⟩
  split
  · next hw =>
    split at hw
    · exact .inl (Port.takeWord_still hl hw)
    · cases hw
  split
  · next u hu => exact .inr ⟨u, hu, rfl⟩
  split
  · exact .inl (Port.takeWord_still hl ‹_›)
  · exact .inl ⟨by simp [Port.stage, Port.startIdle, Port.isUp, hl, isCell], rfl, rfl⟩

/-- A transmitter that starts its cell keeps its law (R124). -/
theorem Port.startCell_transmitterLaw {x : Port} {u : LinkUnit} {v : Service} (hx : TransmitterLaw x) (hl : x.tx.onLink = none)
    (hu : isCell u = true) (hstate : x.tx.state = .sending) (hv : x.tx.service = some v) :
    TransmitterLaw (x.startCell u) :=
  (Port.startCell_steady (x := x.mended) hl (Nat.zero_ne_add_one 255) hu hstate hv).transmitterLaw rfl hx

theorem execUnitBoundary_tallied (o : PortId) {s : State} (hs : s.Tallied) : Ends State.Tallied (execUnitBoundary o s) := by
  unfold execUnitBoundary
  split
  · next hb =>
    have hplain : (s.port o).tx.onLink.any isCell = false := by
      unfold Transmitter.atBoundary at hb
      split at hb <;> simp_all [isCell]
    have hend : (s.port o).Still { s.port o with tx := (s.port o).tx.endUnit .whole } :=
      Port.endUnit_still _ (s.port o).account hplain
    have hlaw := transmitterLaw_of_stage hend.stage (hs.serves o).tx
    refine .next (State.Tallied.finish ?_)
    rcases State.nextUnit_cases (s := s) (o := o) (x := { s.port o with tx := (s.port o).tx.endUnit .whole })
      (by simp) with h | ⟨u, hu, h⟩
    · exact State.Tallied.event hs (Event.modPort_still (hend.trans h))
    · obtain ⟨hsending, hcell, v, hv, -⟩ := State.waitingCell_some hu
      refine State.Tallied.modPort hs (h ▸ Port.startCell_transmitterLaw hlaw (by simp) hcell (v := v) (by simpa using hsending)
        (by simpa using hv)) ((congrArg (fun y => y.tx.service.map (·.src)) h).trans ?_)
        ((congrArg Port.stock h).trans rfl) ((congrArg (·.monitor.waiting) h).trans rfl)
      simp [Port.startCell, Function.comp_def]
  · exact .next hs

/-! ### Resets (R22, R183) -/

/-- Where nothing is stored and nothing is in service, all tallies. -/
theorem State.tallied_of_empty {s : State} (htx : ∀ p, TransmitterLaw (s.port p))
    (hservice : ∀ p, (s.port p).tx.service = none) (hqueues : ∀ p, (s.port p).queues = .fill [])
    (hcopies : ∀ p, (s.port p).copies = []) (hwaiting : ∀ p, (s.port p).monitor.waiting = 0) : s.Tallied where
  serves o := .of_none (htx o) (hservice o) fun i => by rw [hcopies]; rfl
  entries p := by rw [hcopies]; nofun
  waiting o := by
    have hclear (i : PortId) : (s.port i).ClearOf o :=
      ⟨Port.queue_of_fill (hqueues i) o .bulk, Port.queue_of_fill (hqueues i) o .express, by rw [hcopies]; nofun⟩
    rw [hwaiting, State.owed_of_clearOf hclear]

theorem State.powerUp_tallied (l : List Instr) : ({ State.reset with pending := l } : State).Tallied := by
  have hport (q : PortId) : ({ State.reset with pending := l } : State).port q = Port.powerUp := Table.get_fill _ _
  obtain ⟨-, -, -, -, -, -, -, -, -, -, -, htx, -, -, -, -⟩ := portLaw_powerUp
  refine State.tallied_of_empty (fun q => ?_) (fun q => ?_) (fun q => ?_) (fun q => ?_) fun q => ?_ <;> rw [hport]
  · exact htx
  all_goals rfl

/-- The transmitter of a port under fabric reset (R137). -/
theorem Port.fabricReset_transmitterLaw {x : Port} (hx : TransmitterLaw x) : TransmitterLaw x.fabricReset := by
  refine (Port.fabricReset_steady x.mended).transmitterLaw ?_ hx
  have hcell (y : Port) : y.fabricReset.tx.onLink.any isCell = false := y.tx.abortCell_no_cell
  simp only [Port.stage, hcell]
  rfl

theorem State.Tallied.fabricReset {c : Event} (hc : c.Tallied) : c.fabricReset.Tallied := by
  have cleared : State.Tallied ({ c with
      ports := c.ports.map Port.fabricReset, meters := c.meters.map Meter.fabricReset } : Event).toState := by
    have hport (q : PortId) : ({ c with
        ports := c.ports.map Port.fabricReset, meters := c.meters.map Meter.fabricReset } : Event).toState.port q =
        (c.port q).fabricReset := Table.get_map _ _ _
    refine State.tallied_of_empty (fun q => ?_) (fun q => ?_) (fun q => ?_) (fun q => ?_) fun q => ?_ <;> rw [hport]
    · exact Port.fabricReset_transmitterLaw (hc.serves q).tx
    all_goals rfl
  have issued (e : Event) : e.Ports Port.Still ({ e with ports := e.ports.map Port.issueIfLending } : Event) := by
    intro q
    have hq : ({ e with ports := e.ports.map Port.issueIfLending } : Event).port q = (e.port q).issueIfLending :=
      Table.get_map _ _ _
    rw [hq]
    unfold Port.issueIfLending
    split
    · exact ⟨rfl, rfl, rfl⟩
    · exact .refl _
  have told (e : Event) (p : PortId) (x : Port) : e.Ports Port.Still (e.fabricNotices p x) :=
    ((e.raiseIf_still _ _).still_trans (Event.raiseIf_still _ _ _)).still_trans (Event.raiseIf_still _ _ _)
  unfold Event.fabricReset
  refine State.Tallied.event ?_ (issued _)
  refine State.Tallied.event ?_ (Event.foldl_still _ (fun e o => e.evaluate_still o) _ _)
  exact cleared.event (Event.foldl_still _ (fun e p => told e p _) _ _)

/-! ### Every command keeps the tallies -/

section

variable {s : State} (hs : s.Tallied)
include hs

theorem State.Tallied.ends_still {c : Event} (h : (Event.start s).Ports Port.Still c) :
    Ends State.Tallied (.next c.finish) := .next (State.Tallied.event hs h).finish

/-- A receiver that neither enters nor leaves UP. -/
theorem State.Tallied.ends_rx {p : PortId} {r : Receiver} (h : r.link = .up ↔ (s.port p).rx.link = .up) :
    Ends State.Tallied (.next ((Event.start s).modPort p fun x => { x with rx := r }).finish) :=
  hs.ends_still (Event.modPort_still (Port.still_rx h))

/-- A word that completes (R53, R56, R129, R130). -/
theorem State.Tallied.ends_word {o : PortId} {u : LinkUnit} {a : Account} (hu : (s.port o).tx.onLink = some u)
    (hc : isCell u = false) :
    Ends State.Tallied
      (.next ((Event.start s).modPort o fun x => { x with account := a, tx := x.tx.endUnit .whole }).finish) :=
  hs.ends_still (Event.modPort_still (Port.endUnit_still (s.port o) a (by simp [hu, hc])))

/-- A command for the holder alone. -/
theorem State.Tallied.held {a : Answer} {sp : SupPort} {code : Byte} (ha : a.Leads fun c => c.Tallied) :
    Ends State.Tallied (.next (s.answered sp code (s.holderOnly sp a))) := by
  refine .held (I := State.Tallied) (fun _ _ _ _ _ h => h.still fun _ => .refl _) hs ?_
  cases a with
  | done c d => exact State.Tallied.finish ha
  | deny st d => trivial

/-- A command for the holder alone of which the laws see nothing. -/
theorem State.Tallied.held_still {a : Answer} {sp : SupPort} {code : Byte}
    (ha : a.Leads ((Event.start s).Ports Port.Still)) :
    Ends State.Tallied (.next (s.answered sp code (s.holderOnly sp a))) := by
  refine hs.held ?_
  cases a with
  | done c d => exact State.Tallied.event hs ha
  | deny st d => trivial

theorem execMarkerReceived_tallied (p : PortId) (w : ControlWord) : Ends State.Tallied (execMarkerReceived p w s) := by
  unfold execMarkerReceived
  dsimp only
  split
  · split
    · exact .next hs
    · next hl =>
      refine hs.ends_rx ?_
      unfold Receiver.holdoffMarker
      split <;> simp [hl]
    · next hl =>
      split
      · split
        · exact .next (State.Tallied.enterUp (c := Event.start s) hs (by simp [hl]) _).finish
        · exact hs.ends_rx .rfl
      · exact hs.ends_rx .rfl
    · split
      · exact hs.ends_rx .rfl
      · split
        · exact .next (State.Tallied.enterDown (c := Event.start s) hs p).finish
        · exact hs.ends_rx .rfl
  · exact .next hs

theorem execLockLost_tallied (p : PortId) (cut : CutShort) : Ends State.Tallied (execLockLost p cut s) := by
  have hs : (Event.start s).Tallied := hs
  unfold execLockLost
  split
  · refine .next (State.Tallied.enterDown ?_ p).finish
    split
    · exact hs.event (Event.count_still _ _ _)
    · exact hs
  · exact .next hs

/-- Every command keeps the tallies of waiting counts and copies in service. -/
theorem exec_tallied (i : Instr) : Ends State.Tallied (exec i s) := by
  have hstart : (Event.start s).Tallied := hs
  have leaves (h : leavesPorts i = true) : Ends State.Tallied (exec i s) := fun t ht => hs.still fun q => by
    have hq : t.port q = s.port q := congrArg (Table.get · q) (exec_leavesPorts i s h t ht)
    rw [hq]
    exact .refl _
  cases i
  case powerUpReset => exact .next (State.powerUp_tallied _)
  case lockAcquired p =>
    show Ends _ (execLockAcquired p s)
    unfold execLockAcquired
    split
    · next h =>
      refine hs.ends_rx (r := (s.port p).rx.acquire) ?_
      unfold Receiver.acquire
      split <;> simp [h.2]
    · exact .next hs
  case lockLost p cut => exact execLockLost_tallied hs p cut
  case markerReceived p w => exact execMarkerReceived_tallied hs p w
  case hold p => exact execHold_tallied p hs
  case release p => exact execRelease_tallied p hs
  case controlErrorWord p =>
    show Ends _ (execControlErrorWord p s)
    unfold execControlErrorWord
    split
    · exact hs.ends_still ((Event.count_still _ _ _).still_trans (Event.guardFault_still _ _ _))
    · exact .next hs
  case cellReceptionComplete p data closed =>
    show Ends _ (execCellReceptionComplete p data closed s)
    unfold execCellReceptionComplete
    split
    · exact .next (hstart.classify p data closed).finish
    · exact .next hs
  case unitBoundary o => exact execUnitBoundary_tallied o hs
  case departure o =>
    show Ends _ (execDeparture o s)
    unfold execDeparture
    split
    · next hsrc => exact .next (hstart.depart hsrc).finish
    · exact .next hs
  case creditWordCompletion o =>
    show Ends _ (execCreditWordCompletion o s)
    unfold execCreditWordCompletion
    split
    · next hu => exact hs.ends_word hu rfl
    · exact .next hs
  case resyncCompletion o =>
    show Ends _ (execResyncCompletion o s)
    unfold execResyncCompletion
    split
    · next hu => exact hs.ends_word hu rfl
    · exact .next hs
  case congestionWordCompletion o =>
    show Ends _ (execCongestionWordCompletion o s)
    unfold execCongestionWordCompletion
    split
    · next hu => exact hs.ends_word (a := (s.port o).account) hu rfl
    · exact .next hs
  case holdTimerExpiry o =>
    show Ends _ (execHoldTimerExpiry o s)
    unfold execHoldTimerExpiry
    split
    · next h => exact .next (hs.stalls h.1).finish
    · exact .next hs
  case portAdminEnable | portAdminDrain | portAdminDisable | portReset =>
    refine hs.held ?_
    split
    · simp [hstart.enable, hstart.drain, hstart.disable, hstart.resetPort]
    · trivial
  case portResync =>
    refine hs.held_still ?_
    split
    · rw [Answer.leads_below]
      intro h
      split
      · exact Event.modPort_unseen
      · exact Event.still_refl _
    · trivial
  case guardResume =>
    refine hs.held_still ?_
    split
    · simp [Event.clearGuard_still]
    · trivial
  case guardSet =>
    refine hs.held_still ?_
    split
    · simp only [Answer.leads_below, Answer.leads_named, Answer.leads_done]
      exact fun _ _ _ _ _ => (Event.modPort_unseen).still_trans (Event.raiseIf_still _ _ _)
    · trivial
  case linkParams | holdLimit | countersClear | weightStage | expressSet =>
    refine hs.held_still ?_
    split
    · simp only [Answer.leads_below, Answer.leads_named, Answer.leads_done]
      intros
      exact Event.modPort_unseen
    · trivial
  case weightStageRow =>
    refine hs.held_still ?_
    split
    · split
      · simp only [Answer.leads_below, Answer.leads_done]
        exact fun _ => Event.modPort_unseen
      · trivial
    · trivial
  case thresholds =>
    refine hs.held_still ?_
    split
    · simp only [Answer.leads_below, Answer.leads_done]
      exact fun _ => (Event.modPort_unseen).still_trans (Event.evaluate_still _ _)
    · trivial
  case fabricReset =>
    refine hs.held ?_
    split
    · exact hstart.fabricReset
    · trivial
  all_goals exact leaves rfl

end

end Sys2Proof.Machine

namespace Sys2Proof.Proofs

open Sys2Proof Sys2Proof.Machine Sys2Proof.Safety

/-- Settles O58: each shared operation keeps the tallies, or moves a waiting count with the entries that it counts and an
in-service set with the transmitter that it names, and a command is such operations one after the other. -/
theorem stepKeepsWaitingCounts : Obligations.StepKeepsWaitingCounts := by
  intro s t hs ht
  exact (State.tallied_iff t).1 (step_keeps (I := State.Tallied) (fun _ _ h => h.still fun _ => .refl _)
    (fun i _ h => exec_tallied h i) ((State.tallied_iff s).2 hs) ht)

end Sys2Proof.Proofs

/-! # Drains complete (O59)

A drain that no input's loss has ended stands as it stood (`Port.Persists`); one that is over is found by the drain checks,
for which every port that lost its last entry in the event is listed, and told by DRAIN_DONE. -/

namespace Sys2Proof.Machine

open Sys2Proof Sys2Proof.Safety

/-! ### Drains that stand as they stood (R162) -/

/-- `y` has the administration state of `x`, and holds something where `x` does. -/
structure Port.Persists (x y : Port) : Prop where
  admin : y.admin = x.admin
  holds : y.holdsNothing = true → x.holdsNothing = true

theorem Port.Persists.refl (x : Port) : x.Persists x := ⟨rfl, id⟩

theorem Port.Persists.trans {x y z : Port} (h : x.Persists y) (h' : y.Persists z) : x.Persists z :=
  ⟨h'.admin.trans h.admin, fun hz => h.holds (h'.holds hz)⟩

/-- An input holds nothing where no key has an entry (R49, R162). -/
theorem Port.holdsNothing_iff_occupancy (x : Port) : x.holdsNothing = true ↔ ∀ k, x.occupancy k = 0 := by
  rw [Port.holdsNothing_iff, Port.Empty]
  constructor
  · rintro ⟨hq, hc⟩ k
    rcases key_cases k with rfl | ⟨o, c, rfl⟩
    · simp [hc]
    · simp [hq]
  · intro h
    exact ⟨fun o c => by simpa using h (unicastKey o c), by simpa using h keyM⟩

theorem Port.Persists.of_occupancy {x y : Port} (ha : y.admin = x.admin) (h : ∀ k, x.occupancy k ≤ y.occupancy k) :
    x.Persists y where
  admin := ha
  holds hy := by
    rw [Port.holdsNothing_iff_occupancy] at hy ⊢
    exact fun k => Nat.le_zero.1 (hy k ▸ h k)

theorem Port.Persists.of_eq {x y : Port} (ha : y.admin = x.admin) (hq : y.queues = x.queues) (hc : y.copies = x.copies) :
    x.Persists y := .of_occupancy ha fun k => (Port.occupancy_congr hq hc k).ge

/-- The law of a drain says that it is not over (R162). -/
theorem drainLaw_iff (s : State) (q : PortId) : DrainLaw (s.port q) ↔ s.drained q = false := by
  simp [DrainLaw, State.drained]

theorem State.drained_iff (s : State) (q : PortId) :
    s.drained q = true ↔ (s.port q).admin = .draining ∧ (s.port q).holdsNothing = true := by
  simp [State.drained]

/-- A drain that is over was so before, where the port has persisted. -/
theorem Port.Persists.drained {s t : State} {q : PortId} (h : (s.port q).Persists (t.port q)) (ht : t.drained q = true) :
    s.drained q = true := by
  rw [State.drained_iff] at ht ⊢
  exact ⟨h.admin.symm.trans ht.1, h.holds ht.2⟩

/-! ### Operations under which drains persist -/

theorem Event.persists_refl (c : Event) : c.Ports Port.Persists c := fun _ => .refl _

theorem Event.Ports.persists_trans {c d e : Event} (h : c.Ports Port.Persists d) (h' : d.Ports Port.Persists e) :
    c.Ports Port.Persists e := fun q => (h q).trans (h' q)

theorem Event.modPort_persists_of {c : Event} {p : PortId} {f : Port → Port} (h : (c.port p).Persists (f (c.port p))) :
    c.Ports Port.Persists (c.modPort p f) := Event.modPort_ports .refl c p f h

/-- A change of a port that leaves its entries and its administration state. -/
theorem Event.modPort_persists {c : Event} {p : PortId} {f : Port → Port}
    (h : ∀ x : Port, x.Persists (f x) := by exact fun _ => .of_eq rfl rfl rfl) : c.Ports Port.Persists (c.modPort p f) :=
  Event.modPort_persists_of (h _)

theorem Event.foldl_persists {α : Type} (f : Event → α → Event) (hf : ∀ (c : Event) a, c.Ports Port.Persists (f c a))
    (l : List α) (c : Event) : c.Ports Port.Persists (l.foldl f c) := by
  induction l generalizing c with
  | nil => exact c.persists_refl
  | cons a l ih => exact (hf c a).persists_trans (ih _)

theorem Event.raise_persists (c : Event) (n : Notice) : c.Ports Port.Persists (c.raise n) := c.persists_refl

theorem Event.raiseIf_persists (c : Event) (b : Bool) (n : Notice) : c.Ports Port.Persists (c.raiseIf b n) := by
  cases b <;> exact c.persists_refl

theorem Event.count_persists (c : Event) (p : PortId) (k : Counter) : c.Ports Port.Persists (c.count p k) :=
  Event.modPort_persists

theorem Event.free_persists (c : Event) (i : PortId) (k : Key) (n : Nat) : c.Ports Port.Persists (c.free i k n) := by
  intro q
  rw [Event.free_port]
  split
  · rw [Port.freePlaces_eq]
    exact .of_eq rfl rfl rfl
  · exact .refl _

theorem Event.finish_persists (c : Event) (q : PortId) : (c.port q).Persists (c.finish.port q) := by
  rw [Event.finish_port]
  exact .of_eq rfl rfl rfl

theorem Event.setWaiting_persists (c : Event) (o : PortId) (n : Nat) : c.Ports Port.Persists (c.setWaiting o n) := by
  intro q
  have hport : (c.setWaiting o n).port q = (waited c.toState o n).port q :=
    congrArg (State.port · q) (c.setWaiting_eq o n).1
  rw [hport, waited, State.port_ofFn]
  exact .of_eq rfl rfl rfl

theorem Event.evaluate_persists (c : Event) (o : PortId) : c.Ports Port.Persists (c.evaluate o) := by
  rw [Event.evaluate_eq_setWaiting]
  exact c.setWaiting_persists o _

theorem Event.guardFault_persists (c : Event) (p : PortId) (k : FaultKind) : c.Ports Port.Persists (c.guardFault p k) := by
  intro q
  have hport : (c.guardFault p k).port q =
      (c.modPort p fun x => { x with guard := afterFault (c.port p).guard k }).port q :=
    congrArg (State.port · q) (c.guardFault_eq p k).1
  rw [hport]
  exact Event.modPort_persists_of (.of_eq rfl rfl rfl) q

theorem Event.clearGuard_persists (c : Event) (p : PortId) : c.Ports Port.Persists (c.clearGuard p) :=
  (Event.modPort_persists).persists_trans (Event.raiseIf_persists _ _ _)

theorem Event.meterDeparture_persists (c : Event) (o : PortId) (d : Departed) :
    c.Ports Port.Persists (c.meterDeparture o d) := by
  have taken (m : Table Meter 8) : c.Ports Port.Persists { c with meters := m } := c.persists_refl
  exact (taken _).persists_trans (Event.foldl_persists _ (fun e _ => e.raiseIf_persists _ _) _ _)

theorem Event.markHead_persists (c : Event) (o : PortId) : c.Ports Port.Persists (c.markHead o) := by
  have hadmin (q : PortId) : ((c.markHead o).port q).admin = (c.port q).admin := by
    unfold Event.markHead
    split
    · rw [Event.modPort_port]
      split <;> rfl
    · rfl
  exact fun q => .of_occupancy (hadmin q) fun k => (((c.markHead_quiet o).port q).occupancy k).ge

/-- A pick takes no entry from its input (R91, R102). -/
theorem Event.pickCheck_persists (c : Event) (o : PortId) : c.Ports Port.Persists (c.pickCheck o) := by
  intro q
  rcases c.pickCheck_port o q with h | ⟨-, -, k, -, h⟩
  · rw [h]
    exact .refl _
  · rw [h]
    refine .of_occupancy rfl fun j => ?_
    rcases key_cases j with rfl | ⟨p, d, rfl⟩
    · rw [Port.occupancy_keyM, Port.occupancy_keyM]
      dsimp only
      split
      · exact (pickCopy_length _ _).ge
      · exact le_rfl
    · rw [Port.occupancy_unicast, Port.occupancy_unicast]
      exact le_rfl

/-! ### Classification, links and the administration of a port (R21, R26, R159) -/

theorem Event.discardCharged_persists (c : Event) (p : PortId) (key : Key) (k : Counter) :
    c.Ports Port.Persists (c.discardCharged p key k) := (c.count_persists p k).persists_trans (Event.free_persists _ _ _ _)

theorem Event.acceptCell_persists (c : Event) (p d : PortId) (h : Header) (payload : List Byte) :
    c.Ports Port.Persists (c.acceptCell p d h payload) := by
  have joined : c.Ports Port.Persists (c.modPort p (Port.joinCell · d (h.cellEntry payload))) :=
    Event.modPort_persists fun x => .of_occupancy rfl fun k => by
      rw [Port.joinCell_occupancy]
      exact Nat.le_add_right _ _
  rw [Event.acceptCell_eq]
  exact ((joined.persists_trans (Event.count_persists _ _ _)).persists_trans
    (Event.setWaiting_persists _ _ _)).persists_trans (Event.pickCheck_persists _ _)

theorem Event.acceptCopies_persists (c : Event) (p : PortId) (h : Header) (payload : List Byte) (r : OutSet) :
    c.Ports Port.Persists (c.acceptCopies p h payload r) := by
  have joined : c.Ports Port.Persists (c.modPort p (Port.joinCopies · (h.copyEntry payload r))) :=
    Event.modPort_persists fun x => .of_occupancy rfl fun k => by
      rw [Port.joinCopies_occupancy]
      exact Nat.le_add_right _ _
  rw [Event.acceptCopies_eq]
  exact ((joined.persists_trans (Event.count_persists _ _ _)).persists_trans
    (Event.foldl_persists _ (fun e o => e.setWaiting_persists o _) _ _)).persists_trans
    (Event.foldl_persists _ (fun e o => e.pickCheck_persists o) _ _)

theorem Event.place_persists (c : Event) (p : PortId) (h : Header) (payload : List Byte) :
    c.Ports Port.Persists (c.place p h payload) := by
  have looked (g : Table GroupSet 256) : c.Ports Port.Persists { c with groups := g } := c.persists_refl
  unfold Event.place
  split
  · dsimp only
    split
    · exact c.discardCharged_persists _ _ _
    · split
      · exact (looked _).persists_trans (Event.discardCharged_persists _ _ _ _)
      · exact (looked _).persists_trans (Event.acceptCopies_persists _ _ _ _ _)
  · split
    · dsimp only
      split
      · exact c.acceptCell_persists _ _ _ _
      · exact c.discardCharged_persists _ _ _
    · exact c.persists_refl

theorem Event.classify_persists (c : Event) (p : PortId) (data : List Byte) (closed : CellEnd) :
    c.Ports Port.Persists (c.classify p data closed) := by
  have fault (k : Counter) (f : FaultKind) : c.Ports Port.Persists ((c.discard p k).guardFault p f) :=
    (c.count_persists p k).persists_trans (Event.guardFault_persists _ _ _)
  have charged (k : Key) : c.Ports Port.Persists (c.charge p k) := Event.modPort_persists
  unfold Event.classify
  dsimp only
  split
  · exact c.count_persists _ _
  split
  · exact c.count_persists _ _
  split
  · exact (fault _ _).persists_trans Event.modPort_persists
  split
  · exact c.count_persists _ _
  split
  · exact (fault _ _).persists_trans Event.modPort_persists
  split
  · exact fault _ _
  split
  · exact (charged _).persists_trans (Event.discardCharged_persists _ _ _ _)
  · exact (charged _).persists_trans (Event.place_persists _ _ _ _)

theorem Event.enterUp_persists (c : Event) (p : PortId) (good : Nat) : c.Ports Port.Persists (c.enterUp p good) := by
  unfold Event.enterUp
  dsimp only
  refine Event.Ports.persists_trans ?_ ((Event.raise_persists _ _).persists_trans (Event.pickCheck_persists _ _))
  split
  · exact (Event.modPort_persists).persists_trans Event.modPort_persists
  · exact Event.modPort_persists

/-- ENABLE makes its port ENABLED and lets every drain else persist (R159). -/
theorem Event.enable_persists (c : Event) (p : PortId) :
    (c.port p).admin = .enabled ∧ (c.enable p).1 = c ∨
      (c.modPort p fun x => { x with admin := .enabled }).Ports Port.Persists (c.enable p).1 := by
  unfold Event.enable
  dsimp only
  split
  · next ha => exact .inl ⟨ha, rfl⟩
  all_goals
    refine .inr ?_
    dsimp only
  · split
    · exact Event.modPort_persists
    · exact Event.persists_refl _
  · refine Event.Ports.persists_trans ?_ (Event.pickCheck_persists _ _)
    split
    · exact Event.modPort_persists
    · exact Event.persists_refl _

end Sys2Proof.Machine

namespace Sys2Proof.Machine

open Sys2Proof Sys2Proof.Safety

/-! ### The drain checks leave no drain that is over (R162) -/

/-- An input that holds nothing once output `o` is closed held nothing before, or loses a place by it (R61, R94). -/
theorem Event.holdsNothing_of_closeOutput {c : Event} {o q : PortId}
    (h : ((c.closeOutput o).port q).holdsNothing = true) : (c.port q).holdsNothing = true ∨ q ∈ c.losers o := by
  refine or_iff_not_imp_right.2 fun hq => ?_
  have hkeeps : (c.port q).losesPlace o = false := by
    simpa [State.losers, mem_allPorts] using hq
  simp only [Port.losesPlace, Port.leavingCopies, Bool.or_eq_false_iff, Bool.not_eq_false', List.isEmpty_iff,
    bne_eq_false_iff_eq] at hkeeps
  obtain ⟨⟨hexpress, hbulk⟩, hleaving⟩ := hkeeps
  rw [Port.holdsNothing_iff] at h ⊢
  obtain ⟨hqueues, hcopies⟩ := h
  refine ⟨fun p d => ?_, List.eq_nil_iff_length_eq_zero.2 ?_⟩
  · by_cases hp : p = o
    · subst hp
      cases d
      · exact hbulk
      · exact hexpress
    · exact (by rw [Event.closeOutput_queue, if_neg hp] : _ = (c.port q).queue p d).symm.trans (hqueues p d)
  · rw [(c.closeOutput_store o q).2.1] at hcopies
    simpa [hcopies] using hleaving

/-- The ports that are DRAINING. -/
def State.drainingPorts (s : State) : Finset PortId := Finset.univ.filter fun q => (s.port q).admin = .draining

theorem State.mem_drainingPorts {s : State} {q : PortId} : q ∈ s.drainingPorts ↔ (s.port q).admin = .draining := by
  simp [State.drainingPorts]

theorem State.card_drainingPorts_le (s : State) : s.drainingPorts.card ≤ 24 :=
  (Finset.card_le_univ _).trans (by simp)

theorem Event.completed_admin (c : Event) (i q : PortId) :
    (((c.endDrain i).closeOutput i).port q).admin = if q = i then .disabled else (c.port q).admin := by
  rw [Event.closeOutput_admin, Event.endDrain_admin]

/-- A drain that completes is one less (R162). -/
theorem Event.card_drainingPorts_lt {c : Event} {i : PortId} (hi : c.drained i = true) :
    (State.drainingPorts ((c.endDrain i).closeOutput i).toState).card < c.drainingPorts.card := by
  refine Finset.card_lt_card (Finset.ssubset_iff_of_subset (fun q hq => ?_) |>.2 ⟨i, ?_, ?_⟩)
  · have h := State.mem_drainingPorts.1 hq
    rw [Event.completed_admin] at h
    split at h
    · cases h
    · exact State.mem_drainingPorts.2 h
  · exact State.mem_drainingPorts.2 ((State.drained_iff _ _).1 hi).1
  · rw [State.mem_drainingPorts, Event.completed_admin, if_pos rfl]
    exact nofun

/-- Where every drain that is over is listed, and the fuel is enough for every drain there is, none is left that is over. -/
theorem Event.drainChecks_settled {n : Nat} {l : List PortId} {c : Event} (hdue : ∀ q, c.drained q = true → q ∈ l)
    (hfuel : c.drainingPorts.card ≤ n) (q : PortId) : (c.drainChecks n l).drained q = false := by
  induction n generalizing l c with
  | zero =>
    have hnone : q ∉ c.drainingPorts := by simp [Finset.card_eq_zero.1 (Nat.le_zero.1 hfuel)]
    refine Bool.eq_false_iff.2 fun hq => hnone (State.mem_drainingPorts.2 ((State.drained_iff _ _).1 hq).1)
  | succ n ih =>
    unfold Event.drainChecks
    split
    · next hnone =>
      refine Bool.eq_false_iff.2 fun hq => ?_
      exact List.find?_eq_none.1 hnone q (hdue q hq) hq
    · next i hi =>
      have hdrained : c.drained i = true := List.find?_some hi
      refine ih (fun j hj => ?_) (Nat.le_of_lt_succ ((Event.card_drainingPorts_lt hdrained).trans_le hfuel))
      obtain ⟨hadmin, hholds⟩ := (State.drained_iff _ _).1 hj
      rw [Event.completed_admin] at hadmin
      split at hadmin
      · cases hadmin
      · next hji =>
        have hport : (c.endDrain i).port j = c.port j := by
          unfold Event.endDrain
          rw [Event.raise_port, Event.modPort_port_ne _ _ hji]
        refine List.mem_append.2 ((Event.holdsNothing_of_closeOutput hholds).imp (fun h => hdue j ?_) id)
        exact (State.drained_iff _ _).2 ⟨hadmin, hport ▸ h⟩

/-- An output that becomes unavailable where no drain is over leaves none that is. -/
theorem Event.outputUnavailable_settled {c : Event} (hc : ∀ q, c.drained q = false) (o q : PortId) :
    (c.outputUnavailable o).drained q = false := by
  refine Event.drainChecks_settled (fun j hj => ?_) (State.card_drainingPorts_le _) q
  obtain ⟨hadmin, hholds⟩ := (State.drained_iff _ _).1 hj
  rw [Event.closeOutput_admin] at hadmin
  refine (Event.holdsNothing_of_closeOutput hholds).resolve_left fun h => ?_
  exact Bool.eq_false_iff.1 (hc j) ((State.drained_iff _ _).2 ⟨hadmin, h⟩)

/-! ### DRAIN_DONE (R162, R186) -/

theorem mem_insertNotice (n m : Notice) (l : List Notice) : m ∈ insertNotice n l ↔ m = n ∨ m ∈ l := by
  induction l with
  | nil => simp [insertNotice]
  | cons a l ih =>
    unfold insertNotice
    split
    · simp
    · simp [ih, or_left_comm]

/-- Every notice raised in an event is taken at its end (R186). -/
theorem mem_sortNotices (m : Notice) (l : List Notice) : m ∈ sortNotices l ↔ m ∈ l := by
  induction l with
  | nil => rfl
  | cons n l ih =>
    show m ∈ insertNotice n (sortNotices l) ↔ _
    rw [mem_insertNotice, ih, List.mem_cons]

/-- A notice changes no setting, keeps what is latched, and latches its pair where the unit takes it (R186). -/
theorem NoticeUnit.latch_drainDone (u : NoticeUnit) (n : Notice) :
    (u.latch n).drainDone = u.drainDone ∧ (∀ x ∈ u.latched, x ∈ (u.latch n).latched) ∧
      (u.takes n = true → n.pair ∈ (u.latch n).latched) := by
  unfold NoticeUnit.latch
  split
  · refine ⟨rfl, fun x hx => ?_, fun _ => ?_⟩
    all_goals dsimp only; split <;> simp_all
  · next h => exact ⟨rfl, fun x hx => hx, fun ht => absurd ht h⟩

/-- A unit that has DRAIN_DONE enabled latches each one among the notices it takes (R186). -/
theorem NoticeUnit.foldl_latch_drainDone {q : PortId} {l : List Notice} {u : NoticeUnit} (hu : u.drainDone = true)
    (h : .drainDone q ∈ l ∨ (⟨.drainDone, q.val⟩ : NoticePair) ∈ u.latched) :
    (⟨.drainDone, q.val⟩ : NoticePair) ∈ (l.foldl NoticeUnit.latch u).latched := by
  induction l generalizing u with
  | nil => exact h.resolve_left nofun
  | cons n l ih =>
    obtain ⟨hset, hkept, htaken⟩ := u.latch_drainDone n
    refine ih (hset.trans hu) ?_
    rcases h with h | h
    · rcases List.mem_cons.1 h with rfl | h
      · exact .inr (htaken hu)
      · exact .inl h
    · exact .inr (hkept _ h)

/-- A DRAIN_DONE raised in an event is latched by every unit that has it enabled. -/
theorem Event.finish_drainDone {s : State} {c : Event} (hu : c.units = s.units) {q : PortId} (hr : .drainDone q ∈ c.raised)
    (sp : SupPort) (hsp : (s.units.get sp).drainDone = true) :
    (⟨.drainDone, q.val⟩ : NoticePair) ∈ (c.finish.units.get sp).latched := by
  rw [Event.finish_units_of hu]
  cases sp <;> exact NoticeUnit.foldl_latch_drainDone hsp (.inl ((mem_sortNotices _ _).2 hr))

end Sys2Proof.Machine

namespace Sys2Proof.Machine

open Sys2Proof Sys2Proof.Safety

/-! ### What becomes of the drains of a state -/

section

variable (told : PortId → Prop)

/-- No drain of `t` is over, and each drain of `s` whose input holds nothing in `t` has ended, with DRAIN_DONE for the ports
of `told` (R162). -/
structure State.Drains (s t : State) : Prop where
  law : ∀ q, DrainLaw (t.port q)
  ends : ∀ q, (s.port q).admin = .draining → (t.port q).holdsNothing = true →
    (t.port q).admin = .disabled ∧
      (told q → ∀ sp, (s.units.get sp).drainDone = true →
        (⟨.drainDone, q.val⟩ : NoticePair) ∈ (t.units.get sp).latched)

/-- In an event of `s` each drain goes on or has ended, with DRAIN_DONE raised for the ports of `told`. -/
structure Event.Drains (s : State) (c : Event) : Prop where
  units : c.units = s.units
  ends : ∀ q, (s.port q).admin = .draining →
    (c.port q).admin = .draining ∨ (c.port q).admin = .disabled ∧ (told q → .drainDone q ∈ c.raised)

/-- No drain of the event is over (R162). -/
def Event.Settled (c : Event) : Prop := ∀ q, c.drained q = false

variable {told} {s : State}

theorem Event.Settled.persists {c d : Event} (hc : c.Settled) (h : c.Ports Port.Persists d) : d.Settled := fun q =>
  Bool.eq_false_iff.2 fun hd => Bool.eq_false_iff.1 (hc q) ((h q).drained hd)

/-- Nothing has ended yet. -/
theorem Event.Drains.of_admin {c : Event} (hu : c.units = s.units)
    (h : ∀ q, (s.port q).admin = .draining → (c.port q).admin = .draining) : c.Drains told s :=
  ⟨hu, fun q hq => .inl (h q hq)⟩

theorem Event.Drains.of_persists {c : Event} (hu : c.units = s.units) (h : (Event.start s).Ports Port.Persists c) :
    c.Drains told s := .of_admin hu fun q hq => (h q).admin.trans hq

/-- What leaves the administration states and adds to the notices leaves the drains. -/
theorem Event.Drains.kept {c d : Event} (hc : c.Drains told s) (hu : c.SharedSame d)
    (ha : ∀ q, (d.port q).admin = (c.port q).admin) (hr : ∀ n ∈ c.raised, n ∈ d.raised) : d.Drains told s where
  units := hu.2.2.2.1.trans hc.units
  ends q hq := by
    rw [ha q]
    exact (hc.ends q hq).imp id (And.imp id fun h ht => hr _ (h ht))

theorem Event.mem_closeOutput_raised {c : Event} {n : Notice} (o : PortId) (h : n ∈ c.raised) :
    n ∈ (c.closeOutput o).raised := by
  rw [(c.closeOutput_eq o).2.1]
  exact List.mem_append_left _ h

theorem Event.Drains.closeOutput {c : Event} (hc : c.Drains told s) (o : PortId) : (c.closeOutput o).Drains told s :=
  hc.kept (c.closeOutput_shared o) (c.closeOutput_admin o) fun _ => Event.mem_closeOutput_raised o

/-- A drain that completes ends with its DRAIN_DONE (R162). -/
theorem Event.Drains.endDrain {c : Event} (hc : c.Drains told s) (i : PortId) : (c.endDrain i).Drains told s where
  units := (c.endDrain_shared i).2.2.2.1.trans hc.units
  ends q hq := by
    have hraised : (c.endDrain i).raised = c.raised ++ [.drainDone i] := rfl
    rw [Event.endDrain_admin, hraised]
    split
    · next h =>
      subst h
      exact .inr ⟨rfl, fun _ => by simp⟩
    · exact (hc.ends q hq).imp id (And.imp id fun h ht => List.mem_append_left _ (h ht))

theorem Event.Drains.drainChecks {c : Event} (hc : c.Drains told s) (n : Nat) (l : List PortId) :
    (c.drainChecks n l).Drains told s :=
  Event.drainChecks_induct (Event.Drains told s) (fun _ i hd _ => (hd.endDrain i).closeOutput i) n l c hc

theorem Event.Drains.outputUnavailable {c : Event} (hc : c.Drains told s) (o : PortId) :
    (c.outputUnavailable o).Drains told s := (hc.closeOutput o).drainChecks _ _

/-- An event ends with no drain over that its last drain checks have left (R162, R186). -/
theorem Event.Drains.finish {c : Event} (hc : c.Drains told s) (hover : c.Settled) : s.Drains told c.finish where
  law q := (drainLaw_iff _ _).2 <| Bool.eq_false_iff.2 fun h =>
    Bool.eq_false_iff.1 (hover q) ((c.finish_persists q).drained h)
  ends q hq hholds := by
    have hempty : (c.port q).holdsNothing = true := (c.finish_persists q).holds hholds
    rw [(c.finish_persists q).admin]
    rcases hc.ends q hq with h | ⟨h, htold⟩
    · exact absurd ((State.drained_iff _ _).2 ⟨h, hempty⟩) (Bool.eq_false_iff.1 (hover q))
    · exact ⟨h, fun ht sp hsp => Event.finish_drainDone hc.units (htold ht) sp hsp⟩

/-- Where no port has begun to drain and no input has lost its last entry, no drain has ended. -/
theorem State.drains_of_held {t : State} (hs : ∀ q, DrainLaw (s.port q))
    (ha : ∀ q, (t.port q).admin = .draining → (s.port q).admin = .draining)
    (hh : ∀ q, (t.port q).holdsNothing = true → (s.port q).holdsNothing = true) : s.Drains told t where
  law q := fun hq => Bool.eq_false_iff.2 fun h => Bool.eq_false_iff.1 (hs q (ha q hq)) (hh q h)
  ends q hq h := absurd (hh q h) (Bool.eq_false_iff.1 (hs q hq))

theorem State.drains_of_persists {t : State} (hs : ∀ q, DrainLaw (s.port q)) (h : ∀ q, (s.port q).Persists (t.port q)) :
    s.Drains told t :=
  State.drains_of_held hs (fun q hq => (h q).admin.symm.trans hq) fun q => (h q).holds

end

/-! ### Commands that end drains (R94, R134, R160 to R165, R183) -/

section

variable {told : PortId → Prop} {s : State}

/-- An output becomes unavailable in an event under which drains have persisted. -/
theorem Event.Drains.unavailable {c : Event} (hc : c.Drains told s) (hover : c.Settled) (o : PortId) :
    (c.outputUnavailable o).Drains told s ∧ (c.outputUnavailable o).Settled :=
  ⟨hc.outputUnavailable o, fun q => Event.outputUnavailable_settled hover o q⟩

theorem Event.downed_shared (c : Event) (p : PortId) : c.SharedSame (c.downed p) :=
  ((c.modPort_shared _ _).trans (Event.raise_shared _ _)).trans (Event.raiseIf_shared _ _ _)

theorem Event.downed_persists (c : Event) (p : PortId) : c.Ports Port.Persists (c.downed p) :=
  ((Event.modPort_persists).persists_trans (Event.raise_persists _ _)).persists_trans (Event.raiseIf_persists _ _ _)

theorem Event.enterDown_drains {c : Event} (hc : c.Drains told s) (hover : c.Settled) (p : PortId)
    (hr : c.raised = []) : (c.enterDown p).Drains told s ∧ (c.enterDown p).Settled := by
  unfold Event.enterDown
  split
  · have hdowned : (c.downed p).Drains told s :=
      hc.kept (c.downed_shared p) (fun q => ((c.downed_persists p) q).admin) (by simp [hr])
    exact hdowned.unavailable (hover.persists (c.downed_persists p)) p
  · have hdown : c.Ports Port.Persists (c.modPort p fun x => { x with rx := x.rx.inDown }) := Event.modPort_persists
    exact ⟨hc.kept (c.modPort_shared _ _) (fun q => (hdown q).admin) fun _ h => h, hover.persists hdown⟩

theorem Event.resetPort_drains {c : Event} (hc : c.Drains told s) (hover : c.Settled) (p : PortId)
    (hr : c.raised = []) : (c.resetPort p).Drains told s ∧ (c.resetPort p).Settled := by
  obtain ⟨hdrains, hsettled⟩ := Event.enterDown_drains hc hover p hr
  have hrest : (c.enterDown p).Ports Port.Persists (c.resetPort p) :=
    (Event.clearGuard_persists _ p).persists_trans Event.modPort_persists
  refine ⟨hdrains.kept ((Event.clearGuard_shared _ p).trans (Event.modPort_shared _ _ _)) (fun q => (hrest q).admin)
    fun n h => ?_, hsettled.persists hrest⟩
  show n ∈ ((c.enterDown p).clearGuard p).raised
  unfold Event.clearGuard
  rw [Event.raiseIf_raised, Event.modPort_raised]
  split
  · exact List.mem_append_left _ h
  · exact h

/-- DRAIN takes the port into DRAINING, and its drain is over at once where its input holds nothing (R160, R162). -/
theorem Event.drain_drains (hs : ∀ q, s.drained q = false) (p : PortId) :
    ((Event.start s).drain p).Drains told s ∧ ((Event.start s).drain p).Settled := by
  unfold Event.drain
  split
  · next ha =>
    have ha : (s.port p).admin = .enabled := ha
    have begun : Event.Drains told s ((Event.start s).modPort p fun x => { x.withdraw with admin := .draining }) := by
      refine .of_admin rfl fun q hq => ?_
      rw [Event.modPort_port]
      split
      · rfl
      · exact hq
    refine ⟨begun.drainChecks _ _, Event.drainChecks_settled (fun q hq => ?_) (State.card_drainingPorts_le _)⟩
    refine List.mem_singleton.2 (by_contra fun hne => ?_)
    rw [State.drained_iff, Event.modPort_port_ne _ _ hne, ← State.drained_iff] at hq
    exact Bool.eq_false_iff.1 (hs q) hq
  all_goals exact ⟨.of_admin rfl fun _ hq => hq, hs⟩

/-- DISABLE ends the drain of its own port without DRAIN_DONE (R161). -/
theorem Event.disable_drains (hs : ∀ q, s.drained q = false) {p : PortId} (hp : ¬ told p) :
    ((Event.start s).disable p).Drains told s ∧ ((Event.start s).disable p).Settled := by
  have ended : Event.Drains told s ((Event.start s).modPort p fun x => { x.withdraw with admin := .disabled }) ∧
      Event.Settled ((Event.start s).modPort p fun x => { x.withdraw with admin := .disabled }) := by
    refine ⟨⟨rfl, fun q hq => ?_⟩, fun q => Bool.eq_false_iff.2 fun h => ?_⟩
    · rw [Event.modPort_port]
      split
      · next h => exact .inr ⟨rfl, fun ht => absurd (h ▸ ht) hp⟩
      · exact .inl hq
    · rw [State.drained_iff, Event.modPort_port] at h
      split at h
      · exact nomatch h.1
      · exact Bool.eq_false_iff.1 (hs q) ((State.drained_iff _ _).2 h)
  unfold Event.disable
  split
  · exact ended.1.unavailable ended.2 p
  · exact ended.1.unavailable ended.2 p
  · exact ⟨.of_admin rfl fun _ hq => hq, hs⟩

/-- A copy that is not the last of its entry leaves its input as full as it was (R94). -/
theorem Port.depart_persists {o : PortId} {src : Source} {x : Port} (hc : x.copies = (s.port src.input).copies)
    (h : (s.departing o src).2 = false) : x.Persists (x.depart o src) := by
  cases src with
  | cell i c => cases h
  | copy i =>
    have hkept : (departCopy o x.copies).length + (if (s.departing o (.copy i)).2 then 1 else 0) = x.copies.length := by
      rw [hc]
      exact departCopy_length o _
    rw [h] at hkept
    refine .of_occupancy rfl fun k => ?_
    rcases key_cases k with rfl | ⟨q, d, rfl⟩
    · rw [Port.occupancy_keyM, Port.occupancy_keyM]
      exact hkept.ge
    · rw [Port.occupancy_unicast, Port.occupancy_unicast]
      exact le_rfl

/-- The event of a departure as its cell or copy has left its input (R47, R94, R125). -/
def State.leaving (s : State) (o : PortId) (src : Source) : Event :=
  ((Event.start s).modPort o Port.sent).leaves o src (if (s.departing o src).2 then 1 else 0)

/-- The event of a departure before its drain check (R125). -/
def State.completing (s : State) (o : PortId) (src : Source) : Event :=
  ((s.leaving o src).setWaiting o (((s.leaving o src).port o).monitor.waiting - 1)).meterDeparture o
    (s.departing o src).1

theorem Event.complete_eq_completing (s : State) (o : PortId) (src : Source) :
    (Event.start s).complete o src =
      (s.completing o src).drainChecks 24 (if (s.departing o src).2 then [src.input] else []) :=
  (Event.start s).complete_parts o src

theorem State.leaving_units (s : State) (o : PortId) (src : Source) : (s.leaving o src).units = s.units :=
  (Event.free_shared _ _ _ _).2.2.2.1

/-- An output that takes note of a departure leaves the notice units and the drains (R125). -/
theorem Event.noteDeparture_units (c : Event) (o : PortId) (n : Nat) (d : Departed) :
    ((c.setWaiting o n).meterDeparture o d).units = c.units :=
  (congrArg State.units (Event.meterDeparture_raises _ o d).1).trans (c.setWaiting_shared o n).2.2.2.1

theorem Event.noteDeparture_persists (c : Event) (o : PortId) (n : Nat) (d : Departed) :
    c.Ports Port.Persists ((c.setWaiting o n).meterDeparture o d) :=
  (c.setWaiting_persists o n).persists_trans (Event.meterDeparture_persists _ o d)

theorem State.completing_units (s : State) (o : PortId) (src : Source) : (s.completing o src).units = s.units :=
  (Event.noteDeparture_units _ o _ _).trans (s.leaving_units o src)

theorem Port.depart_admin (o : PortId) (src : Source) (x : Port) : (x.depart o src).admin = x.admin := by
  cases src <;> rfl

theorem State.completing_admin (s : State) (o : PortId) (src : Source) (q : PortId) :
    ((s.completing o src).port q).admin = (s.port q).admin := by
  have hsent : (((Event.start s).modPort o Port.sent).port q).admin = (s.port q).admin := by
    rw [Event.modPort_port]
    split <;> rfl
  refine (Event.noteDeparture_persists _ o _ _ q).admin.trans ?_
  rw [State.leaving, Event.leaves, (Event.free_persists _ _ _ _ q).admin, Event.modPort_port]
  split
  · exact (Port.depart_admin _ _ _).trans hsent
  · exact hsent

/-- Before the drain check every drain persists but that of the input that has lost a place. -/
theorem State.completing_persists {s : State} (o : PortId) (src : Source) (q : PortId)
    (h : (s.departing o src).2 = true → q ≠ src.input) : (s.port q).Persists ((s.completing o src).port q) := by
  have hsent : (Event.start s).Ports Port.Persists ((Event.start s).modPort o Port.sent) := Event.modPort_persists
  refine (hsent q).trans (.trans ?_ (Event.noteDeparture_persists _ o _ _ q))
  refine Port.Persists.trans ?_ (Event.free_persists _ _ _ _ q)
  by_cases hq : q = src.input
  · subst hq
    rw [Event.modPort_port_self]
    refine Port.depart_persists (s := s) ?_ (Bool.eq_false_iff.2 fun hd => h hd rfl)
    rw [Event.modPort_port]
    split <;> rfl
  · rw [Event.modPort_port_ne _ _ hq]
    exact .refl _

theorem Event.depart_drains (o : PortId) (src : Source) : ((Event.start s).depart o src).Drains told s := by
  have hcomplete : ((Event.start s).complete o src).Drains told s := by
    rw [Event.complete_eq_completing]
    refine (Event.Drains.of_admin (s.completing_units o src) fun q hq => ?_).drainChecks _ _
    rw [s.completing_admin, hq]
  refine hcomplete.kept (Event.pickCheck_shared _ o) (fun q => (Event.pickCheck_persists _ o q).admin) fun _ h => ?_
  rw [Event.depart, (Event.pickCheck_eq _ o).2.1]
  exact h

/-- A departure completes the drain of the input that loses its last place by it (R94, R162). -/
theorem Event.depart_settled (hs : ∀ q, s.drained q = false) (o : PortId) (src : Source) :
    ((Event.start s).depart o src).Settled := by
  refine Event.Settled.persists (c := (Event.start s).complete o src) ?_ (Event.pickCheck_persists _ o)
  rw [Event.complete_eq_completing]
  refine Event.drainChecks_settled (fun q hq => by_contra fun hout => ?_) (State.card_drainingPorts_le _)
  refine Bool.eq_false_iff.1 (hs q) ((s.completing_persists o src q fun hd => ?_).drained hq)
  rintro rfl
  exact hout (by rw [if_pos hd]; exact List.mem_singleton_self _)

end

end Sys2Proof.Machine

namespace Sys2Proof.Machine

open Sys2Proof Sys2Proof.Safety

/-! ### FABRIC_RESET (R166, R183) -/

/-- A notice once raised stays so under operations that take none back. -/
theorem Event.mem_foldl_raised {α : Type} {f : Event → α → Event} {n : Notice}
    (hf : ∀ (e : Event) a, n ∈ e.raised → n ∈ (f e a).raised) (l : List α) {e : Event} (h : n ∈ e.raised) :
    n ∈ (l.foldl f e).raised := by
  induction l generalizing e with
  | nil => exact h
  | cons a l ih => exact ih (hf e a h)

/-- A notice that the operation at `a` raises is among those of the fold. -/
theorem Event.mem_foldl_raised_of_mem {α : Type} {f : Event → α → Event} {n : Notice}
    (hf : ∀ (e : Event) a, n ∈ e.raised → n ∈ (f e a).raised) {l : List α} {a : α} (ha : a ∈ l)
    (hn : ∀ e, n ∈ (f e a).raised) (e : Event) : n ∈ (l.foldl f e).raised := by
  obtain ⟨before, after, rfl⟩ := List.append_of_mem ha
  rw [List.foldl_append, List.foldl_cons]
  exact Event.mem_foldl_raised hf after (hn _)

theorem Event.mem_raiseIf_raised {c : Event} {n : Notice} (b : Bool) (m : Notice) (h : n ∈ c.raised) :
    n ∈ (c.raiseIf b m).raised := by
  rw [Event.raiseIf_raised]
  split
  · exact List.mem_append_left _ h
  · exact h

theorem Event.mem_fabricNotices_raised {c : Event} {n : Notice} (p : PortId) (x : Port) (h : n ∈ c.raised) :
    n ∈ (c.fabricNotices p x).raised :=
  Event.mem_raiseIf_raised _ _ (Event.mem_raiseIf_raised _ _ (Event.mem_raiseIf_raised _ _ h))

theorem Event.mem_evaluate_raised {c : Event} {n : Notice} (o : PortId) (h : n ∈ c.raised) :
    n ∈ (c.evaluate o).raised := by
  rw [Event.evaluate_eq_setWaiting, (c.setWaiting_eq o _).2.1]
  exact List.mem_append_left _ h

/-- FABRIC_RESET raises DRAIN_DONE for each port that drains (R166). -/
theorem Event.fabricReset_raised {c : Event} {q : PortId} (hq : (c.port q).admin = .draining) :
    .drainDone q ∈ c.fabricReset.raised := by
  have issued (e : Event) : ({ e with ports := e.ports.map Port.issueIfLending } : Event).raised = e.raised := rfl
  unfold Event.fabricReset
  dsimp only
  rw [issued]
  refine Event.mem_foldl_raised (fun e o => Event.mem_evaluate_raised o) allPorts ?_
  refine Event.mem_foldl_raised_of_mem (f := fun e p => e.fabricNotices p (c.port p))
    (fun e p => Event.mem_fabricNotices_raised p _) (mem_allPorts q) (fun e => ?_) _
  unfold Event.fabricNotices
  rw [hq]
  exact List.mem_append_right _ (List.mem_singleton_self _)

/-- FABRIC_RESET takes every port out of DRAINING into DISABLED (R166). -/
theorem Event.fabricReset_admin (c : Event) (q : PortId) :
    (c.fabricReset.port q).admin = if (c.port q).admin = .draining then .disabled else (c.port q).admin := by
  let cleared : Event := { c with ports := c.ports.map Port.fabricReset, meters := c.meters.map Meter.fabricReset }
  let noticed := allPorts.foldl (fun e p => e.fabricNotices p (c.port p)) cleared
  have hcleared : cleared.port q = (c.port q).fabricReset := Table.get_map _ _ _
  have hnoticed : cleared.Ports Port.Persists noticed := Event.foldl_persists _ (fun e p =>
    ((e.raiseIf_persists _ _).persists_trans (Event.raiseIf_persists _ _ _)).persists_trans
      (Event.raiseIf_persists _ _ _)) _ _
  have hevaluated := Event.foldl_persists (fun e o => e.evaluate o) (fun e o => e.evaluate_persists o) allPorts noticed
  have issued (e : Event) :
      ({ e with ports := e.ports.map Port.issueIfLending } : Event).port q = (e.port q).issueIfLending :=
    Table.get_map _ _ _
  have hport : c.fabricReset.port q = ((allPorts.foldl (fun e o => e.evaluate o) noticed).port q).issueIfLending :=
    issued _
  have hissue (x : Port) : x.issueIfLending.admin = x.admin := by
    unfold Port.issueIfLending
    split <;> rfl
  rw [hport, hissue, (hevaluated q).admin, (hnoticed q).admin, hcleared]
  rfl

theorem Event.fabricReset_drains (told : PortId → Prop) (s : State) :
    (Event.start s).fabricReset.Drains told s ∧ (Event.start s).fabricReset.Settled := by
  refine ⟨⟨(Event.start s).fabricReset_shared.2.2.2.1, fun q hq => .inr ⟨?_, fun _ => Event.fabricReset_raised hq⟩⟩,
    fun q => Bool.eq_false_iff.2 fun h => ?_⟩
  · rw [Event.fabricReset_admin, if_pos (by exact hq)]
  · have hadmin := ((State.drained_iff _ _).1 h).1
    rw [Event.fabricReset_admin] at hadmin
    split at hadmin
    · cases hadmin
    · next hne => exact hne hadmin

/-! ### Every command -/

/-- The commands that tell of the end of the drain of port `q`: all but its own DISABLE and power-up reset (R161, R162). -/
def TellsOfDrain (i : Instr) (q : PortId) : Prop :=
  i ≠ .powerUpReset ∧ ∀ sp action, i ≠ .portAdminDisable sp [portByte q, action]

section

variable {told : PortId → Prop} {s : State} (hs : ∀ q, DrainLaw (s.port q))
include hs

theorem State.ends_drains_self : Ends (s.Drains told) (.next s) :=
  .next (State.drains_of_persists hs fun _ => .refl _)

theorem State.ends_persists {c : Event} (h : (Event.start s).Ports Port.Persists c) :
    Ends (s.Drains told) (.next c.finish) :=
  .next (State.drains_of_persists hs fun q => (h q).trans (c.finish_persists q))

omit hs in
theorem Event.finish_drains {c : Event} (h : c.Drains told s ∧ c.Settled) : s.Drains told c.finish := h.1.finish h.2

omit hs in
theorem State.ends_drains {c : Event} (h : c.Drains told s ∧ c.Settled) : Ends (s.Drains told) (.next c.finish) :=
  .next (Event.finish_drains h)

theorem State.not_drained (q : PortId) : s.drained q = false := (drainLaw_iff s q).1 (hs q)

/-- A command for the holder alone. -/
theorem State.held_drains {a : Answer} {sp : SupPort} {code : Byte} (ha : a.Leads fun c => s.Drains told c.finish) :
    Ends (s.Drains told) (.next (s.answered sp code (s.holderOnly sp a))) :=
  .held (I := s.Drains told) (fun _ _ _ _ _ h => ⟨h.law, h.ends⟩) (State.drains_of_persists hs fun _ => .refl _) ha

/-- A command for the holder alone under which every drain persists. -/
theorem State.held_persists {a : Answer} {sp : SupPort} {code : Byte} (ha : a.Leads ((Event.start s).Ports Port.Persists)) :
    Ends (s.Drains told) (.next (s.answered sp code (s.holderOnly sp a))) := by
  refine State.held_drains hs ?_
  cases a with
  | done c d => exact State.drains_of_persists hs fun q => (ha q).trans (c.finish_persists q)
  | deny st d => trivial

theorem Event.enable_drains (p : PortId) : s.Drains told ((Event.start s).enable p).1.finish := by
  rcases (Event.start s).enable_persists p with ⟨-, h⟩ | h
  · rw [h]
    exact State.drains_of_persists hs fun q => Event.finish_persists (Event.start s) q
  · have hend (q : PortId) := (h q).trans (Event.finish_persists _ q)
    refine State.drains_of_held hs (fun q hq => ?_) fun q hq => ?_
    · have hadmin := (hend q).admin.symm.trans hq
      rw [Event.modPort_port] at hadmin
      split at hadmin
      · cases hadmin
      · exact hadmin
    · have hholds := (hend q).holds hq
      rw [Event.modPort_port] at hholds
      split at hholds <;> exact hholds

theorem execMarkerReceived_drains (p : PortId) (w : ControlWord) :
    Ends (s.Drains told) (execMarkerReceived p w s) := by
  have rx (r : Receiver) : Ends (s.Drains told) (.next ((Event.start s).modPort p fun x => { x with rx := r }).finish) :=
    State.ends_persists hs Event.modPort_persists
  unfold execMarkerReceived
  dsimp only
  split
  · split
    · exact State.ends_drains_self hs
    · exact rx _
    · split
      · split
        · exact State.ends_persists hs (Event.enterUp_persists _ _ _)
        · exact rx _
      · exact rx _
    · split
      · exact rx _
      · split
        · exact State.ends_drains (Event.enterDown_drains (c := Event.start s) (.of_admin rfl fun _ h => h)
            (State.not_drained hs) p rfl)
        · exact rx _
  · exact State.ends_drains_self hs

theorem execLockLost_drains (p : PortId) (cut : CutShort) : Ends (s.Drains told) (execLockLost p cut s) := by
  have down {c : Event} (h : (Event.start s).Ports Port.Persists c) (hu : c.units = s.units) (hr : c.raised = []) :
      Ends (s.Drains told) (.next (c.enterDown p).finish) :=
    State.ends_drains (Event.enterDown_drains (.of_persists hu h)
      (Event.Settled.persists (State.not_drained hs) h) p hr)
  unfold execLockLost
  split
  · dsimp only
    split
    · exact down (Event.count_persists _ _ _) rfl rfl
    · exact down (Event.persists_refl _) rfl rfl
  · exact State.ends_drains_self hs

theorem execHoldTimerExpiry_drains (o : PortId) : Ends (s.Drains told) (execHoldTimerExpiry o s) := by
  unfold execHoldTimerExpiry
  split
  · have h : (Event.start s).Ports Port.Persists (Event.expired s o) :=
      (Event.modPort_persists).persists_trans (Event.raise_persists _ _)
    have hdrains : (Event.expired s o).Drains told s := .of_persists rfl h
    exact State.ends_drains (hdrains.unavailable (Event.Settled.persists (State.not_drained hs) h) o)
  · exact State.ends_drains_self hs

end

end Sys2Proof.Machine

namespace Sys2Proof.Machine

open Sys2Proof Sys2Proof.Safety

section

variable {told : PortId → Prop} {s : State} (hs : ∀ q, DrainLaw (s.port q))
include hs

theorem execHold_drains (p : PortId) : Ends (s.Drains told) (execHold p s) := by
  unfold execHold
  split
  · split
    · exact State.ends_persists hs ((Event.markHead_persists _ _).persists_trans Event.modPort_persists)
    · exact State.ends_persists hs Event.modPort_persists
    all_goals exact State.ends_drains_self hs
  · exact State.ends_drains_self hs

theorem execRelease_drains (p : PortId) : Ends (s.Drains told) (execRelease p s) := by
  unfold execRelease
  split
  · split
    · split
      · exact State.ends_persists hs Event.modPort_persists
      · exact State.ends_persists hs ((Event.modPort_persists).persists_trans (Event.pickCheck_persists _ _))
    · exact State.ends_persists hs (((Event.modPort_persists).persists_trans (Event.raise_persists _ _)).persists_trans
        (Event.pickCheck_persists _ _))
    all_goals exact State.ends_drains_self hs
  · exact State.ends_drains_self hs

theorem execUnitBoundary_drains (o : PortId) : Ends (s.Drains told) (execUnitBoundary o s) := by
  unfold execUnitBoundary
  split
  · refine State.ends_persists hs (Event.modPort_persists_of ?_)
    obtain ⟨a, t, h, -⟩ := s.nextUnit_chooses o { s.port o with tx := (s.port o).tx.endUnit .whole }
    show (s.port o).Persists (s.nextUnit o { s.port o with tx := (s.port o).tx.endUnit .whole })
    rw [h]
    exact .of_eq rfl rfl rfl
  · exact State.ends_drains_self hs

end

/-- Every command ends the drains of the inputs that it empties (R162). -/
theorem exec_drains (i : Instr) {s : State} (hs : ∀ q, DrainLaw (s.port q)) :
    Ends (s.Drains (TellsOfDrain i)) (exec i s) := by
  have leaves (h : leavesPorts i = true) : Ends (s.Drains (TellsOfDrain i)) (exec i s) := fun t ht =>
    State.drains_of_persists hs fun q => by
      have hq : t.port q = s.port q := congrArg (Table.get · q) (exec_leavesPorts i s h t ht)
      rw [hq]
      exact .refl _
  have hover := State.not_drained hs
  cases i
  case powerUpReset =>
    have hport (q : PortId) : ({ State.reset with pending := s.pending } : State).port q = Port.powerUp :=
      Table.get_fill _ _
    refine .next ⟨fun q hq => ?_, fun q _ _ => ⟨?_, fun h => absurd rfl h.1⟩⟩
    · rw [hport] at hq
      cases hq
    · rw [hport]
      rfl
  case lockAcquired p =>
    show Ends _ (execLockAcquired p s)
    unfold execLockAcquired
    split
    · exact State.ends_persists hs Event.modPort_persists
    · exact State.ends_drains_self hs
  case lockLost p cut => exact execLockLost_drains hs p cut
  case markerReceived p w => exact execMarkerReceived_drains hs p w
  case hold p => exact execHold_drains hs p
  case release p => exact execRelease_drains hs p
  case controlErrorWord p =>
    show Ends _ (execControlErrorWord p s)
    unfold execControlErrorWord
    split
    · exact State.ends_persists hs ((Event.count_persists _ _ _).persists_trans (Event.guardFault_persists _ _ _))
    · exact State.ends_drains_self hs
  case cellReceptionComplete p data closed =>
    show Ends _ (execCellReceptionComplete p data closed s)
    unfold execCellReceptionComplete
    split
    · exact State.ends_persists hs (Event.classify_persists _ _ _ _)
    · exact State.ends_drains_self hs
  case unitBoundary o => exact execUnitBoundary_drains hs o
  case departure o =>
    show Ends _ (execDeparture o s)
    unfold execDeparture
    split
    · exact State.ends_drains ⟨Event.depart_drains o _, Event.depart_settled hover o _⟩
    · exact State.ends_drains_self hs
  case creditWordCompletion o =>
    show Ends _ (execCreditWordCompletion o s)
    unfold execCreditWordCompletion
    split
    · exact State.ends_persists hs Event.modPort_persists
    · exact State.ends_drains_self hs
  case resyncCompletion o =>
    show Ends _ (execResyncCompletion o s)
    unfold execResyncCompletion
    split
    · exact State.ends_persists hs Event.modPort_persists
    · exact State.ends_drains_self hs
  case congestionWordCompletion o =>
    show Ends _ (execCongestionWordCompletion o s)
    unfold execCongestionWordCompletion
    split
    · exact State.ends_persists hs Event.modPort_persists
    · exact State.ends_drains_self hs
  case holdTimerExpiry o => exact execHoldTimerExpiry_drains hs o
  case portAdminEnable sp args =>
    refine State.held_drains hs ?_
    split
    · simp only [Answer.leads_below, Answer.leads_named, Answer.leads_done]
      exact fun _ _ _ => Event.enable_drains hs _
    · trivial
  case portAdminDrain sp args =>
    refine State.held_drains hs ?_
    split
    · simp only [Answer.leads_below, Answer.leads_named, Answer.leads_done]
      exact fun _ _ _ => Event.finish_drains (Event.drain_drains hover _)
    · trivial
  case portAdminDisable sp args =>
    refine State.held_drains hs ?_
    split
    · next p action =>
      simp only [Answer.leads_below, Answer.leads_named, Answer.leads_done]
      exact fun hp _ _ => Event.finish_drains (Event.disable_drains hover (p := ⟨p.toNat, hp⟩) fun h =>
        h.2 sp action (by simp [portByte]))
    · trivial
  case portReset sp args =>
    refine State.held_drains hs ?_
    split
    · simp only [Answer.leads_below, Answer.leads_done]
      exact fun _ => Event.finish_drains
        (Event.resetPort_drains (c := Event.start s) (.of_admin rfl fun _ h => h) hover _ rfl)
    · trivial
  case portResync =>
    refine State.held_persists hs ?_
    split
    · rw [Answer.leads_below]
      intro h
      split
      · exact Event.modPort_persists
      · exact Event.persists_refl _
    · trivial
  case guardResume =>
    refine State.held_persists hs ?_
    split
    · simp [Event.clearGuard_persists]
    · trivial
  case guardSet =>
    refine State.held_persists hs ?_
    split
    · simp only [Answer.leads_below, Answer.leads_named, Answer.leads_done]
      exact fun _ _ _ _ _ => (Event.modPort_persists).persists_trans (Event.raiseIf_persists _ _ _)
    · trivial
  case linkParams | holdLimit | countersClear | weightStage | expressSet =>
    refine State.held_persists hs ?_
    split
    · simp only [Answer.leads_below, Answer.leads_named, Answer.leads_done]
      intros
      exact Event.modPort_persists
    · trivial
  case weightStageRow =>
    refine State.held_persists hs ?_
    split
    · split
      · simp only [Answer.leads_below, Answer.leads_done]
        exact fun _ => Event.modPort_persists
      · trivial
    · trivial
  case thresholds =>
    refine State.held_persists hs ?_
    split
    · simp only [Answer.leads_below, Answer.leads_done]
      exact fun _ => (Event.modPort_persists).persists_trans (Event.evaluate_persists _ _)
    · trivial
  case fabricReset sp args =>
    refine State.held_drains hs ?_
    split
    · exact Event.finish_drains (Event.fabricReset_drains _ s)
    · trivial
  all_goals exact leaves rfl

end Sys2Proof.Machine

namespace Sys2Proof.Proofs

open Sys2Proof Sys2Proof.Machine Sys2Proof.Safety

/-- Settles O59: a command either lets every drain persist or ends in drain checks, for which each input that it emptied is
listed, and which leave no drain that is over. -/
theorem stepCompletesDrains : Obligations.StepCompletesDrains := by
  intro s t hs ht
  unfold step at ht
  split at ht
  · cases ht
    exact ⟨hs, fun p hd he => absurd he (Bool.eq_false_iff.1 (hs p hd))⟩
  · next i rest hq =>
    have h := exec_drains i (s := { s with pending := rest }) hs t ht
    refine ⟨h.law, fun p hd he => ?_⟩
    obtain ⟨hadmin, htold⟩ := h.ends p hd he
    refine ⟨hadmin, fun hreset hdisable => htold ⟨?_, fun sp action => ?_⟩⟩
    · rintro rfl
      exact hreset (by rw [hq]; rfl)
    · rintro rfl
      exact hdisable sp action (by rw [hq]; rfl)

end Sys2Proof.Proofs

/-! # The check of a pick (O24) -/

namespace Sys2Proof.Machine

open Sys2Proof Sys2Proof.Safety

/-- An output is available when its link is UP, it is ENABLED or DRAINING, and its transmitter is not STALLED (R157). -/
theorem Port.available_iff (x : Port) : x.available = true ↔
    x.rx.link = .up ∧ (x.admin = .enabled ∨ x.admin = .draining) ∧ x.tx.state ≠ .stalled := by
  simp only [Port.available, Bool.and_eq_true, Bool.or_eq_true, beq_iff_eq, bne_iff_ne, and_assoc]

section

variable {s : State} {o : PortId}

/-- An input has nothing to offer where both its queues are empty and no entry is its candidate (R90, R107). -/
theorem State.eligible_eq_false_iff (i : PortId) : s.eligible o i = false ↔
    (s.port i).queue o .express = [] ∧ (s.port i).queue o .bulk = [] ∧ (s.port i).candidate o = none := by
  simp [State.eligible, State.expressWaits, State.bulkWaits, State.copyWaits, and_assoc]

/-- Where no input has a candidate there is no pick (R102). -/
theorem State.nextPick_eq_none (h : ∀ i, s.eligible o i = false) : s.nextPick o = none := by
  have hempty (i : PortId) : ¬ s.eligible o i = true := Bool.eq_false_iff.1 (h i)
  have hexpress (i : PortId) : s.expressWaits o i = false := by
    have hi := h i
    simp only [State.eligible, Bool.or_eq_false_iff] at hi
    exact hi.1.1
  have hnodue : ¬ s.reloadDue o (s.port o).arbiter = true := fun hdue => by
    obtain ⟨i, hi, -⟩ := (State.reloadDue_iff _).1 hdue
    exact hempty i hi
  rw [State.nextPick_of_bulk (State.expressPick_eq_none (.inr hexpress)),
    State.bulkPick_of_spare (State.allowancePick_eq_none fun i hi => absurd hi (hempty i)) hnodue,
    State.sparePick_eq_none _ h]

/-- Where an input has a candidate, spare service finds one at the latest (R111). -/
theorem State.exists_nextPick (h : ∃ i, s.eligible o i = true) : ∃ k, s.nextPick o = some k := by
  have spare (a : Arbiter) : ∃ k, s.sparePick o a = some k := by
    obtain ⟨i, f, -, -, hk⟩ := State.sparePick_of_eligible a h
    exact ⟨_, hk⟩
  unfold State.nextPick State.bulkPick
  split
  · exact ⟨_, rfl⟩
  split
  · exact ⟨_, rfl⟩
  split
  · split
    · exact ⟨_, rfl⟩
    · exact spare _
  · exact spare _

/-- The output of a pick takes its cell into service, with its marks clear (R102, R124). -/
def Port.takes (x : Port) (a : Arbiter) (src : Source) : Port :=
  { x with
    arbiter := a
    tx := { x.tx with state := .sending, service := some { src := src, aborted := false, started := false } } }

/-- A check without a pick changes nothing (R102). -/
theorem afterPick_of_none
    (h : (s.port o).tx.state ≠ .idle ∨ (s.port o).available = false ∨ s.nextPick o = none) : afterPick s o = s := by
  unfold afterPick Event.pickCheck
  split
  · next hfree =>
    obtain ⟨hidle, havailable⟩ := hfree
    have hnone : (Event.start s).nextPick o = none :=
      (h.resolve_left (not_not.2 hidle)).resolve_left (by simpa using havailable)
    rw [hnone]
    rfl
  · rfl

section

variable (hidle : (s.port o).tx.state = .idle) (havailable : (s.port o).available = true) {k : Pick}
  (hk : s.nextPick o = some k)
include hidle havailable hk

/-- A pick of a cell starts it (R102). -/
theorem afterPick_of_cell (hoffer : k.offer ≠ .copy) :
    afterPick s o = withPort s o ((s.port o).takes k.arbiter k.source) := by
  unfold afterPick Event.pickCheck
  rw [if_pos ⟨hidle, havailable⟩]
  have hpick : (Event.start s).nextPick o = some k := hk
  rw [hpick]
  dsimp only
  rw [if_neg hoffer]
  rfl

/-- A pick of a copy marks its entry and starts it (R91, R102). -/
theorem afterPick_of_copy (hoffer : k.offer = .copy) :
    let marked := withPort s k.input { s.port k.input with copies := pickCopy o (s.port k.input).copies }
    afterPick s o = withPort marked o ((marked.port o).takes k.arbiter k.source) := by
  unfold afterPick Event.pickCheck
  rw [if_pos ⟨hidle, havailable⟩]
  have hpick : (Event.start s).nextPick o = some k := hk
  rw [hpick]
  dsimp only
  rw [if_pos hoffer]
  rfl

end

/-- The pick marks the first entry that waits for the output (R90, R91). -/
theorem exists_pickCopy_eq {l : List CopyEntry} (h : ∃ e ∈ l, e.waitsFor o = true) :
    ∃ before e after, l = before ++ e :: after ∧ e.waitsFor o = true ∧ (∀ a ∈ before, a.waitsFor o = false) ∧
      pickCopy o l = before ++ { e with inService := e.inService.add o } :: after := by
  induction l with
  | nil => simp at h
  | cons a l ih =>
    cases ha : a.waitsFor o
    · obtain ⟨before, e, after, rfl, he, hbefore, hpick⟩ := ih (by simpa [ha] using h)
      exact ⟨a :: before, e, after, rfl, he, by simpa [ha] using hbefore, by simp [pickCopy, ha, hpick]⟩
    · exact ⟨[], a, l, rfl, ha, nofun, by simp [pickCopy, ha]⟩

end

end Sys2Proof.Machine

namespace Sys2Proof.Proofs

open Sys2Proof Sys2Proof.Machine Sys2Proof.Safety

/-- Settles O24: availability by its definition; the check by whether there is a pick and what it offers. -/
theorem pickCheckTakesTheArbitersChoice : Obligations.PickCheckTakesTheArbitersChoice := by
  refine ⟨Port.available_iff, fun s o => ⟨fun h => ?_, fun hidle havailable hsome => ?_⟩⟩
  · refine afterPick_of_none (h.imp_right (Or.imp_right fun hnone => State.nextPick_eq_none fun i => ?_))
    exact (State.eligible_eq_false_iff i).2 (hnone i)
  · obtain ⟨i, hi⟩ := hsome
    have heligible : s.eligible o i = true := by
      rw [← Bool.not_eq_false, State.eligible_eq_false_iff]
      tauto
    obtain ⟨k, hk⟩ := State.exists_nextPick ⟨i, heligible⟩
    have cell (hoffer : k.offer ≠ .copy) := afterPick_of_cell hidle havailable hk hoffer
    refine ⟨k, hk, fun hoffer => ?_, fun hoffer => ?_, fun hoffer => ?_⟩
    · rw [cell (by simp [hoffer]), Pick.source, hoffer]
      rfl
    · rw [cell (by simp [hoffer]), Pick.source, hoffer]
      rfl
    · obtain ⟨before, e, after, hsplit, he, hbefore, hpick⟩ := exists_pickCopy_eq (State.nextPick_candidate hk hoffer)
      refine ⟨before, e, after, hsplit, he, hbefore, ?_⟩
      rw [afterPick_of_copy hidle havailable hk hoffer, hpick, Pick.source, hoffer]
      rfl

end Sys2Proof.Proofs

/-! # PORT_ADMIN ENABLE (O36) -/

namespace Sys2Proof.Machine

open Sys2Proof Sys2Proof.Safety

/-- A port made ENABLED, with a credit issue if its link is UP (R159). -/
def Port.enabled (x : Port) : Port :=
  if x.rx.link = .up then ({ x with admin := .enabled } : Port).issue else { x with admin := .enabled }

/-- A port made ENABLED out of DISABLED, whose map is owed if its link is UP (R130, R159). -/
def Port.mapped (x : Port) : Port :=
  if x.rx.link = .up then { x.enabled with tx := { x.enabled.tx with congestionUpdate := true } } else x.enabled

theorem Port.enabled_admin (x : Port) : x.enabled.admin = .enabled := by
  unfold Port.enabled
  split <;> rfl

theorem Port.enabled_rx (x : Port) : x.enabled.rx = x.rx := by
  unfold Port.enabled
  split <;> rfl

/-- The map that is owed is no matter of a port's administration (R130). -/
theorem Port.mapped_admin (x : Port) :
    x.mapped.admin = .enabled ∧ x.mapped.rx = x.rx ∧ x.mapped.epoch = x.enabled.epoch ∧
      x.mapped.available = x.enabled.available := by
  unfold Port.mapped
  split <;> exact ⟨x.enabled_admin, x.enabled_rx, rfl, rfl⟩

section

variable {s : State} {p : PortId}

theorem Event.enable_of_enabled {c : Event} (h : (c.port p).admin = .enabled) : c.enable p = (c, false) := by
  simp only [Event.enable, h]

/-- A change of a port is what it makes of the port as it stands. -/
theorem Event.modPort_congr {c : Event} {f g : Port → Port} (h : f (c.port p) = g (c.port p)) :
    c.modPort p f = c.modPort p g :=
  congrArg (fun x : Port => ({ c with ports := c.ports.put p x } : Event)) h

theorem Event.enable_of_draining {c : Event} (h : (c.port p).admin = .draining) :
    c.enable p = (c.modPort p Port.enabled, (c.port p).isUp) := by
  simp only [Event.enable, h, Event.modPort_modPort]
  refine Prod.ext ?_ rfl
  dsimp only
  by_cases hup : (c.port p).rx.link = .up
  · rw [Port.isUp, if_pos (by simp [hup])]
    exact Event.modPort_congr (by simp only [Port.enabled, if_pos hup])
  · rw [Port.isUp, if_neg (by simp [hup])]
    exact Event.modPort_congr (by simp only [Port.enabled, if_neg hup])

theorem Event.enable_of_disabled {c : Event} (h : (c.port p).admin = .disabled) :
    c.enable p = ((c.modPort p Port.mapped).pickCheck p, (c.port p).isUp) := by
  simp only [Event.enable, h, Event.modPort_modPort]
  refine Prod.ext (congrArg (Event.pickCheck · p) ?_) rfl
  by_cases hup : (c.port p).rx.link = .up
  · rw [Port.isUp, if_pos (by simp [hup])]
    exact Event.modPort_congr (by simp only [Port.mapped, Port.enabled, if_pos hup])
  · rw [Port.isUp, if_neg (by simp [hup])]
    exact Event.modPort_congr (by simp only [Port.mapped, Port.enabled, if_neg hup])

/-- A pick leaves what a response to PORT_ADMIN tells of its port: an IDLE transmitter goes to SENDING (R102, R158). -/
theorem Event.pickCheck_adminData (c : Event) (o : PortId) (b d : Bool) :
    adminData s (c.pickCheck o) o b d = adminData s c o b d := by
  rcases c.pickCheck_port o o with h | ⟨hidle, -, k, -, h⟩
  · simp only [adminData, h]
  · have hfree : (TxState.sending != .stalled) = (TxState.idle != .stalled) := rfl
    simp [adminData, h, Port.available, hidle, hfree]

/-- ENABLE from the holder (R158, R159). -/
theorem execPortAdminEnable_eq {sp : SupPort} (hs : s.master.holder = some sp) :
    exec (.portAdminEnable sp [portByte p, 0#8]) s =
      .next (((Event.start s).enable p).1.finish.respond sp 0x20#8 .ok
        (adminData s ((Event.start s).enable p).1 p ((Event.start s).enable p).2 false)) := by
  show Host.Outcome.next (s.answered sp 0x20#8 _) = _
  rw [answered_portCommand hs, show actionIs .enabled 0#8 = some () from rfl, named_some]
  rfl

end

end Sys2Proof.Machine

namespace Sys2Proof.Proofs

open Sys2Proof Sys2Proof.Machine Sys2Proof.Safety

/-- Settles O36: from each of the three states ENABLE is one change of the port, with a pick check from DISABLED. -/
theorem portAdminEnables : Obligations.PortAdminEnables := by
  intro s sp p hs x up enabled mapped command
  have hexec := execPortAdminEnable_eq (s := s) (p := p) hs
  have henabled : x.enabled = enabled := by simp [Port.enabled, enabled, up]
  have hmapped : x.mapped = mapped := by simp [Port.mapped, henabled, mapped, up]
  refine ⟨fun ha => ?_, fun ha => ?_, fun ha => ?_⟩
  · rw [Event.enable_of_enabled ha, Event.finish_of_quiet _ rfl rfl] at hexec
    refine hexec.trans ?_
    simp only [adminData, Event.start_toState]
    rw [ha]
  · rw [Event.enable_of_draining ha, Event.finish_modPort] at hexec
    refine hexec.trans ?_
    simp only [adminData, Event.start_toState, Event.modPort_port_self]
    rw [ha, Port.enabled_admin, Port.enabled_rx]
    rw [← henabled]
    rfl
  · obtain ⟨hadmin, hrx, hepoch, havailable⟩ := x.mapped_admin
    rw [Event.enable_of_disabled ha, Event.finish_pickCheck rfl, Event.pickCheck_adminData] at hexec
    refine hexec.trans ?_
    simp only [adminData, Event.start_toState, Event.modPort_port_self]
    rw [ha, hadmin, hrx, hepoch, havailable, ← henabled, ← hmapped]
    rfl

end Sys2Proof.Proofs

/-! # PORT_ADMIN DRAIN and DISABLE (O37, O38) -/

namespace Sys2Proof.Machine

open Sys2Proof Sys2Proof.Safety

/-! ### A port that has become DISABLED, whatever drains complete (R59, R161, R162) -/

/-- Port `p`, which was `x`, is DISABLED with its credits withdrawn, and the event has freed no key of it. -/
structure Event.Shut (p : PortId) (x : Port) (c : Event) : Prop where
  admin : (c.port p).admin = .disabled
  account : (c.port p).account = withdrawn x.account
  rx : (c.port p).rx = x.rx
  epoch : (c.port p).epoch = x.epoch
  freed : ∀ f ∈ c.freed, f.1 ≠ p

section

variable {p : PortId} {x : Port} {c : Event}

theorem Event.Shut.lends (h : c.Shut p x) : (c.port p).lends = false := by simp [Port.lends, h.admin]

/-- What a port keeps of its own as some output is closed (R61). -/
theorem State.closedPort_own (s : State) (o q : PortId) :
    (s.closedPort o q).admin = (s.port q).admin ∧ (s.closedPort o q).account = ((s.port q).afterLoss o).account ∧
      (s.closedPort o q).rx = (s.port q).rx ∧ (s.closedPort o q).epoch = (s.port q).epoch := by
  unfold State.closedPort
  generalize s.port q = x
  split <;> exact ⟨rfl, rfl, rfl, rfl⟩

/-- A DISABLED port neither gains credit nor comes to owe the map as an output is closed (R50, R142). -/
theorem Event.Shut.closeOutput (h : c.Shut p x) (o : PortId) : (c.closeOutput o).Shut p x := by
  obtain ⟨hadmin, haccount, hrx, hepoch⟩ := c.closedPort_own o p
  have hlost : ((c.port p).afterLoss o).account = (c.port p).account := by simp [Port.afterLoss, h.lends]
  have hport := c.closeOutput_port o p
  dsimp only at hport
  refine ⟨?_, ?_, ?_, ?_, fun f hf => ?_⟩
  · rw [hport]; exact hadmin.trans h.admin
  · rw [hport]; exact haccount.trans (hlost.trans h.account)
  · rw [hport]; exact hrx.trans h.rx
  · rw [hport]; exact hepoch.trans h.epoch
  · rw [(c.closeOutput_eq o).2.2, List.mem_append, List.mem_flatMap] at hf
    rcases hf with hf | ⟨i, -, hf⟩
    · exact h.freed f hf
    · obtain ⟨k, hk, rfl⟩ := List.mem_map.1 hf
      rintro rfl
      simp [Port.lossKeys, h.lends] at hk

/-- A drain that completes is that of another port. -/
theorem Event.Shut.endDrain (h : c.Shut p x) {i : PortId} (hi : c.drained i = true) : (c.endDrain i).Shut p x := by
  have hne : p ≠ i := by
    rintro rfl
    have hdraining := ((State.drained_iff _ _).1 hi).1
    rw [h.admin] at hdraining
    cases hdraining
  have hport : (c.endDrain i).port p = c.port p := by
    unfold Event.endDrain
    rw [Event.raise_port, Event.modPort_port_ne _ _ hne]
  exact ⟨hport ▸ h.admin, hport ▸ h.account, hport ▸ h.rx, hport ▸ h.epoch, h.freed⟩

theorem Event.Shut.drainChecks (h : c.Shut p x) (n : Nat) (l : List PortId) : (c.drainChecks n l).Shut p x :=
  Event.drainChecks_induct (Event.Shut p x) (fun _ i hd hi => (hd.endDrain hi).closeOutput i) n l c h

/-- The end of the event frees the port nothing. -/
theorem Event.Shut.finish_account (h : c.Shut p x) : (c.finish.port p).account = withdrawn x.account := by
  have hnone : c.joining p = [] := by
    unfold Event.joining
    rw [List.map_eq_nil_iff, List.filter_eq_nil_iff]
    intro f hf
    simpa using h.freed f ((sortFreed_perm _).mem_iff.1 hf)
  rw [Event.finish_port, hnone]
  exact h.account

/-- What a response to PORT_ADMIN tells of a port that it has made DISABLED (R158). -/
theorem Event.Shut.adminData {s : State} (h : c.Shut p (s.port p)) (b d : Bool) :
    Machine.adminData s c p b d =
      .portAdmin (s.port p).admin .disabled b (s.port p).epoch d (s.port p).rx.link false := by
  unfold Machine.adminData
  rw [h.admin, h.epoch, h.rx, Port.available_of_disabled h.admin]

end

/-- Once an output is closed no input waits for it, whatever drains complete (R61, R95). -/
theorem Event.drainChecks_clearOf {c : Event} {o i : PortId} (h : (c.port i).ClearOf o) (n : Nat) (l : List PortId) :
    ((c.drainChecks n l).port i).ClearOf o :=
  ((c.drainChecks_frame n l) i).toEntries.clearOf h

theorem Event.closeOutput_clearOf (c : Event) (o i : PortId) : ((c.closeOutput o).port i).ClearOf o := by
  obtain ⟨hq, hc⟩ := c.closeOutput_clears o i
  exact ⟨hq .bulk, hq .express, hc⟩

/-! ### The state that the output of such a port is closed from -/

/-- A port made DISABLED, its credits withdrawn (R161, R162). -/
def Port.shut (x : Port) : Port := { x.withdraw with admin := .disabled }

/-- The state as port `p` becomes DISABLED, before its output is closed. -/
def State.shut (s : State) (p : PortId) : State := withPort s p (s.port p).shut

theorem State.shut_port (s : State) (p : PortId) : (s.shut p).port p = (s.port p).shut := withPort_port_self _ _ _

theorem State.shut_agreeBut (s : State) (p : PortId) : s.AgreeBut p (s.shut p) :=
  Event.agreeBut_modPort (c := Event.start s) (f := Port.shut) ⟨rfl, rfl, rfl, rfl, rfl⟩

/-- A drop of the cell in service in the statements' words (R126). -/
theorem Transmitter.dropCell_eq (t : Transmitter) : t.dropCell = dropped t := by
  unfold Transmitter.dropCell dropped
  cases hv : t.service with
  | none => simp
  | some v =>
    simp only [Option.isSome_some, if_true, Transmitter.abortCell_eq, reduceCtorEq, if_false]
    cases hs : t.state <;> rfl

/-- A DISABLED port never comes to owe the map (R142). -/
theorem owed_of_disabled {x : Port} (h : x.admin = .disabled) (b : Bool) : Safety.owed b x = x.tx := by
  simp [Safety.owed, h]

/-- What is said of the state `t` after an event of `s` in which port `p` has become DISABLED, where the notices but for those
of a flush are `l` (R59, R61, R95, R126, R161, R162). -/
structure State.ShutsPort (s : State) (p : PortId) (l : List Notice) (t : State) : Prop where
  admin : (t.port p).admin = .disabled
  account : (t.port p).account = withdrawn (s.port p).account
  queues : ∀ i q, (t.port i).queue p q = []
  copies : ∀ i, ∀ e ∈ (t.port i).copies, e.remaining.has p = false
  rest : NoOtherDrainEnds p s t →
    FlushedToward p s t ∧ (t.port p).rx = (s.port p).rx ∧ (t.port p).guard = (s.port p).guard ∧
      (t.port p).tx = dropped (s.port p).tx ∧ (t.port p).counters = flushedCounters s p (s.port p).counters ∧
      t.units = (notify s (sortNotices (l ++ flushEdge s p))).units

theorem State.ShutsPort.respond {s t : State} {p : PortId} {l : List Notice} (h : s.ShutsPort p l t) (sp : SupPort)
    (code : Byte) (st : Status) (d : RespData) : s.ShutsPort p l (t.respond sp code st d) :=
  ⟨h.admin, h.account, h.queues, h.copies, h.rest⟩

section

variable {s : State} {p : PortId} {e : Event} (he : e.toState = s.shut p) (hf : e.freed = [])
include he hf

theorem Event.shut_of_shut : e.Shut p (s.port p) := by
  have hport : e.port p = (s.port p).shut := (congrArg (State.port · p) he).trans (s.shut_port p)
  refine ⟨?_, ?_, ?_, ?_, by simp [hf]⟩ <;> rw [hport] <;> rfl

/-- Where no other drain completes, the output is closed and that is all. -/
theorem Event.finish_closeOutput_shut :
    let t := (e.closeOutput p).finish
    FlushedToward p s t ∧ (t.port p).rx = (s.port p).rx ∧ (t.port p).guard = (s.port p).guard ∧
      (t.port p).tx = dropped (s.port p).tx ∧ (t.port p).counters = flushedCounters s p (s.port p).counters ∧
      t.units = (notify s (sortNotices (e.raised ++ flushEdge s p))).units := by
  have hagree : s.AgreeBut p e.toState := he ▸ s.shut_agreeBut p
  have hport : e.port p = (s.port p).shut := (congrArg (State.port · p) he).trans (s.shut_port p)
  obtain ⟨htx, hrx, -, hguard, hcounters⟩ := e.closeOutput_port_self p
  obtain ⟨hfintx, hfinrx, -, hfinguard⟩ := (e.closeOutput p).finish_own p
  have hunits : (e.closeOutput p).units = s.units := 
    (e.closeOutput_shared p).2.2.2.1.trans ((congrArg State.units he).trans rfl)
  refine ⟨flushedToward_of_closeOutput hagree hf (.refl p _) rfl, hfinrx.trans (hrx.trans ?_),
    hfinguard.trans (hguard.trans ?_), hfintx.trans (htx.trans ?_),
    (Event.finish_counters _ p).trans (hcounters.trans ?_), ?_⟩
  · rw [hport]; rfl
  · rw [hport]; rfl
  · rw [owed_of_disabled (by rw [hport]; rfl), hport, ← Transmitter.dropCell_eq]
    rfl
  · unfold flushedCounters
    rw [hagree.owed, hport]
    rfl
  · rw [Event.finish_units_of hunits, (e.closeOutput_eq p).2.1]
    exact congrArg (fun l => (notify s (sortNotices (e.raised ++ l))).units) (hagree.flushEdge p)

/-- A port that has become DISABLED and whose output is closed, with the drain checks that follow. -/
theorem Event.drainChecks_shutsPort (n : Nat) (m : List PortId) :
    s.ShutsPort p e.raised ((e.closeOutput p).drainChecks n m).finish := by
  have hshut := ((Event.shut_of_shut he hf).closeOutput p).drainChecks n m
  have hclear (i : PortId) : (((e.closeOutput p).drainChecks n m).finish.port i).ClearOf p :=
    (Event.finish_calm _ i).toEntries.clearOf (Event.drainChecks_clearOf (e.closeOutput_clearOf p i) n m)
  refine ⟨?_, hshut.finish_account, fun i q => ?_, fun i => (hclear i).2.2, fun hnd => ?_⟩
  · rw [Event.finish_port]
    exact hshut.admin
  · cases q
    · exact (hclear i).1
    · exact (hclear i).2.1
  · have hnone : (e.closeOutput p).drainChecks n m = e.closeOutput p :=
      Event.drainChecks_of_noneEnds n m _ fun q hq => by
        have hqp : q ≠ p := by
          rintro rfl
          rw [((Event.shut_of_shut he hf).closeOutput q).admin] at hq
          cases hq
        have hbefore : (e.port q).admin = (s.port q).admin := by
          rw [← (he ▸ s.shut_agreeBut p : s.AgreeBut p e.toState).port q hqp]
        rw [Event.closeOutput_admin, hbefore] at hq
        have hend := hnd q hqp hq
        rwa [Event.finish_port] at hend
    rw [hnone]
    exact Event.finish_closeOutput_shut he hf

/-- The response of such an event, with the rest of its data (R158). -/
theorem Event.drainChecks_response (n : Nat) (m : List PortId) (sp : SupPort) (b d : Bool) :
    let r := (e.closeOutput p).drainChecks n m
    (r.finish.respond sp 0x20#8 .ok (adminData s r p b d)).spi =
      (s.respond sp 0x20#8 .ok
        (.portAdmin (s.port p).admin .disabled b (s.port p).epoch d (s.port p).rx.link false)).spi := by
  have hshut := ((Event.shut_of_shut he hf).closeOutput p).drainChecks n m
  obtain ⟨-, -, hmaster, -, hspi, -⟩ := (e.closeOutput_shared p).trans (Event.drainChecks_shared n m _)
  have hmaster' : e.master = s.master := (congrArg State.master he).trans rfl
  have hspi' : e.spi = s.spi := (congrArg State.spi he).trans rfl
  dsimp only
  rw [hshut.adminData]
  simp only [State.respond, Event.finish_spi, Event.finish_master, hmaster, hspi, hmaster', hspi']

end

/-! ### The commands -/

section

variable {s : State} {sp : SupPort} {p : PortId} (hs : s.master.holder = some sp)
include hs

/-- DISABLE from the holder (R158, R161). -/
theorem execPortAdminDisable_eq :
    exec (.portAdminDisable sp [portByte p, 2#8]) s =
      .next (((Event.start s).disable p).finish.respond sp 0x20#8 .ok
        (adminData s ((Event.start s).disable p) p false false)) := by
  show Host.Outcome.next (s.answered sp 0x20#8 _) = _
  rw [answered_portCommand hs, show actionIs .disabled 2#8 = some () from rfl, named_some]
  rfl

/-- DRAIN from the holder (R158, R160). -/
theorem execPortAdminDrain_eq :
    exec (.portAdminDrain sp [portByte p, 1#8]) s =
      .next (((Event.start s).drain p).finish.respond sp 0x20#8 .ok
        (adminData s ((Event.start s).drain p) p false
          ((s.port p).admin == .enabled && (((Event.start s).drain p).port p).admin == .disabled))) := by
  show Host.Outcome.next (s.answered sp 0x20#8 _) = _
  rw [answered_portCommand hs, show actionIs .draining 1#8 = some () from rfl, named_some]
  rfl

end

/-- A drain that is over and found first completes, and the checks go on (R162). -/
theorem Event.drainChecks_of_find {c : Event} {l : List PortId} {i : PortId} (h : l.find? c.drained = some i) (n : Nat) :
    c.drainChecks (n + 1) l =
      ((c.endDrain i).closeOutput i).drainChecks n (l ++ (c.endDrain i).losers i) := by
  simp only [Event.drainChecks, h]

/-- The credits of a port that drains are withdrawn already (R59, R160). -/
theorem Port.shut_of_draining (x : Port) : ({ x.withdraw with admin := .draining } : Port).shut = x.shut := by
  simp [Port.shut, Port.withdraw, Account.voided, Function.comp_def]

/-- DISABLE of a port that is not DISABLED (R161). -/
theorem Event.disable_eq {s : State} {p : PortId} (h : (s.port p).admin ≠ .disabled) :
    ∃ l, (Event.start s).disable p = (((Event.start s).modPort p Port.shut).closeOutput p).drainChecks 24 l :=
  ⟨_, Event.disable_of_open (c := Event.start s) h⟩

/-- DRAIN of an ENABLED port whose input holds nothing is the end of its drain (R160, R162). -/
theorem Event.drain_of_empty {s : State} {p : PortId} (ha : (s.port p).admin = .enabled)
    (hh : (s.port p).holdsNothing = true) :
    ∃ l, (Event.start s).drain p =
      ((((Event.start s).modPort p Port.shut).raise (.drainDone p)).closeOutput p).drainChecks 23 l := by
  let begun := (Event.start s).modPort p fun x => { x.withdraw with admin := .draining }
  have hdrained : begun.drained p = true := by
    rw [State.drained_iff, Event.modPort_port_self]
    exact ⟨rfl, hh⟩
  have hend : begun.endDrain p = ((Event.start s).modPort p Port.shut).raise (.drainDone p) := by
    show (begun.modPort p Port.shut).raise (.drainDone p) = _
    rw [Event.modPort_modPort]
    exact congrArg (Event.raise · (.drainDone p)) (Event.modPort_congr (Port.shut_of_draining _))
  have hdrain : (Event.start s).drain p = begun.drainChecks 24 [p] := by
    simp only [Event.drain, Event.start_toState, ha]
    rfl
  rw [hdrain, Event.drainChecks_of_find (List.find?_cons_of_pos hdrained) 23, hend]
  exact ⟨_, rfl⟩

/-- DRAIN of an ENABLED port whose input holds a cell (R160). -/
theorem Event.drain_of_holding {c : Event} {p : PortId} (ha : (c.port p).admin = .enabled)
    (hh : (c.port p).holdsNothing = false) :
    c.drain p = c.modPort p fun x => { x.withdraw with admin := .draining } := by
  simp only [Event.drain, ha]
  refine Event.drainChecks_of_not_drained 24 fun i hi => ?_
  rw [List.mem_singleton.1 hi, Bool.eq_false_iff, Ne, State.drained_iff, Event.modPort_port_self]
  exact fun h => Bool.eq_false_iff.1 hh h.2

theorem Event.drain_of_not_enabled {c : Event} {p : PortId} (ha : (c.port p).admin ≠ .enabled) : c.drain p = c := by
  unfold Event.drain
  split
  · next h => exact absurd h ha
  all_goals rfl

/-- The notices of a drain that is over at once, in the order of R186. -/
theorem sortNotices_drainDone (s : State) (p : PortId) :
    sortNotices ([.drainDone p] ++ flushEdge s p) = flushEdge s p ++ [.drainDone p] := by
  unfold flushEdge flagEdge
  split
  · rfl
  · exact sortNotices_pair_swap rfl

theorem sortNotices_flushEdge (s : State) (p : PortId) : sortNotices ([] ++ flushEdge s p) = flushEdge s p := by
  unfold flushEdge flagEdge
  split <;> rfl

end Sys2Proof.Machine

namespace Sys2Proof.Proofs

open Sys2Proof Sys2Proof.Machine Sys2Proof.Safety

/-- Settles O37: a port that holds a cell by the change of that port; one that holds nothing by the end of its drain, of
which the flush is all where no other drain completes. -/
theorem portAdminDrains : Obligations.PortAdminDrains := by
  intro s sp p hs x command
  have hexec := execPortAdminDrain_eq (s := s) (p := p) hs
  refine ⟨fun ha hh => ?_, fun ha hh => ?_, fun ha => ?_⟩
  · rw [Event.drain_of_holding ha hh, Event.finish_modPort] at hexec
    refine hexec.trans ?_
    have havailable : ({ x.withdraw with admin := .draining } : Port).available = x.available := by
      simp [Port.available, Port.withdraw, show x.admin = .enabled from ha]
    simp only [adminData, Event.modPort_port_self, Event.start_toState]
    rw [havailable, ha]
    rfl
  · obtain ⟨l, hdrain⟩ := Event.drain_of_empty ha hh
    have hstate : (((Event.start s).modPort p Port.shut).raise (.drainDone p)).toState = s.shut p := rfl
    have hraised : (((Event.start s).modPort p Port.shut).raise (.drainDone p)).raised = [.drainDone p] := rfl
    have hfreed : (((Event.start s).modPort p Port.shut).raise (.drainDone p)).freed = [] := rfl
    rw [hdrain] at hexec
    generalize ((Event.start s).modPort p Port.shut).raise (.drainDone p) = e at hexec hstate hraised hfreed
    have hshut := ((Event.shut_of_shut hstate hfreed).closeOutput p).drainChecks 23 l
    have hshuts := (Event.drainChecks_shutsPort hstate hfreed 23 l).respond sp 0x20#8 .ok
    rw [ha, hshut.admin] at hexec
    refine ⟨_, hexec, (hshuts _).admin, (hshuts _).account, (hshuts _).queues, (hshuts _).copies, ?_, fun hnd => ?_⟩
    · rw [Event.drainChecks_response hstate hfreed, ha]
      rfl
    · have hrest := (hshuts _).rest hnd
      rwa [hraised, sortNotices_drainDone] at hrest
  · have hne : (s.port p).admin ≠ .enabled := by
      rcases ha with h | h <;> simp [show (s.port p).admin = _ from h]
    rw [Event.drain_of_not_enabled hne, Event.finish_of_quiet _ rfl rfl] at hexec
    refine hexec.trans ?_
    simp only [adminData, Event.start_toState]
    rw [show ((s.port p).admin == AdminState.enabled) = false from beq_eq_false_iff_ne.2 hne]
    rfl

/-- Settles O38: the change of the port and the flush of its output, which is all where no other drain completes. -/
theorem portAdminDisables : Obligations.PortAdminDisables := by
  intro s sp p hs x command
  have hexec := execPortAdminDisable_eq (s := s) (p := p) hs
  refine ⟨fun ha => ?_, fun ha => ?_⟩
  · have hopen : (s.port p).admin ≠ .disabled := by
      rcases ha with h | h <;> simp [show (s.port p).admin = _ from h]
    obtain ⟨l, hdisable⟩ := Event.disable_eq hopen
    have hstate : ((Event.start s).modPort p Port.shut).toState = s.shut p := rfl
    have hraised : ((Event.start s).modPort p Port.shut).raised = [] := rfl
    have hfreed : ((Event.start s).modPort p Port.shut).freed = [] := rfl
    rw [hdisable] at hexec
    generalize (Event.start s).modPort p Port.shut = e at hexec hstate hraised hfreed
    have hshuts := (Event.drainChecks_shutsPort hstate hfreed 24 l).respond sp 0x20#8 .ok
    refine ⟨_, hexec, (hshuts _).admin, (hshuts _).account, (hshuts _).queues, (hshuts _).copies,
      Event.drainChecks_response hstate hfreed _ _ _ _ _, fun hnd => ?_⟩
    have hrest := (hshuts _).rest hnd
    rwa [hraised, sortNotices_flushEdge] at hrest
  · rw [Event.disable_of_disabled (c := Event.start s) ha, Event.finish_of_quiet _ rfl rfl] at hexec
    refine hexec.trans ?_
    simp only [adminData, Event.start_toState]
    rw [Port.available_of_disabled ha, ha]

end Sys2Proof.Proofs

/-! # The departure that ends a drain (O30) -/

namespace Sys2Proof.Machine

open Sys2Proof Sys2Proof.Safety

/-- An output that takes note of a departure leaves the store and the credits (R125). -/
theorem Event.noteDeparture_quiet (c : Event) (o : PortId) (n : Nat) (d : Departed) :
    c.Quiet ((c.setWaiting o n).meterDeparture o d) :=
  (c.setWaiting_quiet o n).trans (Event.meterDeparture_quiet _ o d)

section

variable {s : State} {o : PortId} {src : Source}

/-- What the input of a departure holds before the drain check (R47, R94). -/
theorem State.completing_occupancy (hne : ∀ i c, src = .cell i c → (s.port i).queue o c ≠ []) (k : Key) :
    ((s.completing o src).port src.input).occupancy k +
        (if k = src.key o then if (s.departing o src).2 then 1 else 0 else 0) =
      (s.port src.input).occupancy k := by
  have hsent : (((Event.start s).modPort o Port.sent).port src.input).queues = (s.port src.input).queues ∧
      (((Event.start s).modPort o Port.sent).port src.input).copies = (s.port src.input).copies := by
    rw [Event.modPort_port]
    split <;> exact ⟨rfl, rfl⟩
  obtain ⟨hqueues, hcopies⟩ := hsent
  have hnoted : ((s.completing o src).port src.input).occupancy k = ((s.leaving o src).port src.input).occupancy k :=
    ((Event.noteDeparture_quiet _ o _ _).port src.input).occupancy k
  rw [hnoted, State.leaving, Event.leaves, Event.free_port, if_pos rfl, Event.modPort_port_self,
    Port.freePlaces_eq, ← Port.occupancy_congr hqueues hcopies k, ← Port.depart_occupancy hqueues hcopies hne k]
  rfl

/-- An input of which the last cell or the last copy departs is drained before the drain check (R162). -/
theorem State.completing_drained (hadmin : (s.port src.input).admin = .draining) (hfrees : (s.departing o src).2 = true)
    (hlast : ∀ k, (s.port src.input).occupancy k = if k = src.key o then 1 else 0) :
    (s.completing o src).drained src.input = true := by
  have hne (i : PortId) (c : Class) (h : src = .cell i c) : (s.port i).queue o c ≠ [] := by
    subst h
    have hone := hlast (unicastKey o c)
    rw [Port.occupancy_unicast, show (Source.cell i c).key o = unicastKey o c from rfl, if_pos rfl] at hone
    rintro hnil
    rw [show (Source.cell i c).input = i from rfl, hnil] at hone
    cases hone
  rw [State.drained_iff, s.completing_admin]
  refine ⟨hadmin, (Port.holdsNothing_iff_occupancy _).2 fun k => ?_⟩
  have hleft := State.completing_occupancy hne k
  rw [hlast, hfrees] at hleft
  simp only [if_true] at hleft
  omega

/-- The departure that ends the drain of its input: it is DISABLED, holds nothing, and nothing waits for its output. -/
theorem Event.depart_endsDrain (h : (s.completing o src).drained src.input = true) (hfrees : (s.departing o src).2 = true) :
    let c := (Event.start s).depart o src
    (c.port src.input).admin = .disabled ∧ (c.port src.input).Empty ∧ ∀ j, (c.port j).ClearOf src.input := by
  have hends : ∃ l, (Event.start s).complete o src =
      (((s.completing o src).endDrain src.input).closeOutput src.input).drainChecks 23 l := by
    rw [Event.complete_eq_completing, if_pos hfrees, Event.drainChecks_of_find (List.find?_cons_of_pos h) 23]
    exact ⟨_, rfl⟩
  obtain ⟨l, hends⟩ := hends
  let closed := ((s.completing o src).endDrain src.input).closeOutput src.input
  have hadmin : (closed.port src.input).admin = .disabled := by
    rw [Event.completed_admin, if_pos rfl]
  have hempty : (closed.port src.input).Empty := by
    have hbefore := (Port.holdsNothing_iff _).1 ((State.drained_iff _ _).1 h).2
    exact (((s.completing o src).endDrain_frame src.input src.input).toEntries.trans
      (Event.closeOutput_calm _ src.input src.input).toEntries).empty hbefore
  have hclear (j : PortId) : (closed.port j).ClearOf src.input := Event.closeOutput_clearOf _ _ j
  have hrest (j : PortId) := ((closed.drainChecks_frame 23 l) j).toEntries.trans
    ((closed.drainChecks 23 l).pickCheck_calm o j).toEntries
  dsimp only
  rw [Event.depart, hends]
  refine ⟨?_, (hrest _).empty hempty, fun j => (hrest j).clearOf (hclear j)⟩
  rw [(Event.pickCheck_persists _ o src.input).admin]
  exact Event.drainChecks_keeps_disabled 23 l closed src.input hadmin

/-- A cell, or a copy, that is the last of its input: what the input holds (R49, R94). -/
theorem Port.occupancy_of_last_cell {x : Port} {c : Class} {e : CellEntry} (hqueue : x.queue o c = [e])
    (hcopies : x.copies = []) (hrest : ∀ q d, ¬ (q = o ∧ d = c) → x.queue q d = []) (i : PortId) (k : Key) :
    x.occupancy k = if k = (Source.cell i c).key o then 1 else 0 := by
  show _ = if k = unicastKey o c then 1 else 0
  rcases key_cases k with rfl | ⟨q, d, rfl⟩
  · rw [Port.occupancy_keyM, hcopies, if_neg (unicastKey_ne_keyM o c).symm]
    rfl
  · rw [Port.occupancy_unicast]
    by_cases h : q = o ∧ d = c
    · obtain ⟨rfl, rfl⟩ := h
      rw [hqueue, if_pos rfl]
      rfl
    · rw [hrest q d h, if_neg fun hk => h (unicastKey_inj hk)]
      rfl

theorem Port.occupancy_of_last_copy {x : Port} {e : CopyEntry} (hcopies : x.copies = [e])
    (hqueues : ∀ q d, x.queue q d = []) (i : PortId) (k : Key) :
    x.occupancy k = if k = (Source.copy i).key o then 1 else 0 := by
  show _ = if k = keyM then 1 else 0
  rcases key_cases k with rfl | ⟨q, d, rfl⟩
  · rw [Port.occupancy_keyM, hcopies, if_pos rfl]
    rfl
  · rw [Port.occupancy_unicast, hqueues, if_neg (unicastKey_ne_keyM q d)]
    rfl

end

end Sys2Proof.Machine

namespace Sys2Proof.Proofs

open Sys2Proof Sys2Proof.Machine Sys2Proof.Safety

/-- Settles O30: the last place of the input is freed, so that the drain check finds the drain over, completes it with its
DRAIN_DONE and closes its output. -/
theorem lastDepartureEndsTheDrain : Obligations.LastDepartureEndsTheDrain := by
  intro s o i v hstate hv hstarted hdraining hlast
  have hsource : v.src.input = i ∧ (s.departing o v.src).2 = true ∧
      ∀ k, (s.port i).occupancy k = if k = v.src.key o then 1 else 0 := by
    rcases hlast with ⟨c, e, hsrc, hqueue, hcopies, hrest⟩ | ⟨e, hsrc, hcopies, he, hdrop, hqueues⟩
    · rw [hsrc]
      exact ⟨rfl, rfl, Port.occupancy_of_last_cell hqueue hcopies hrest i⟩
    · rw [hsrc, State.departing_copy (Port.servedCopy_of_split (before := []) hcopies he nofun)]
      exact ⟨rfl, beq_iff_eq.2 hdrop, Port.occupancy_of_last_copy hcopies hqueues i⟩
  obtain ⟨rfl, hfrees, hoccupancy⟩ := hsource
  have hdrained := State.completing_drained hdraining hfrees hoccupancy
  obtain ⟨hadmin, hempty, hclear⟩ := Event.depart_endsDrain hdrained hfrees
  have hdone : Event.Drains (fun _ => True) s ((Event.start s).depart o v.src) := Event.depart_drains o v.src
  set c := (Event.start s).depart o v.src
  have hfin (j : PortId) := (c.finish_calm j).toEntries
  refine ⟨c.finish, execDeparture_of_sending hstate hv hstarted, ?_, (Port.holdsNothing_iff _).2 ((hfin _).empty hempty),
    fun j q => ?_, fun j => ((hfin j).clearOf (hclear j)).2.2, fun sp hsp => ?_⟩
  · rw [(c.finish_persists _).admin, hadmin]
  · obtain ⟨hbulk, hexpress, -⟩ := (hfin j).clearOf (hclear j)
    cases q
    · exact hbulk
    · exact hexpress
  · rcases hdone.ends _ hdraining with h | ⟨-, htold⟩
    · rw [hadmin] at h
      cases h
    · exact Event.finish_drainDone hdone.units (htold trivial) sp hsp

end Sys2Proof.Proofs

/-! # The notice units and the mastership unit, whatever command is taken (O53) -/

namespace Sys2Proof.Safety

open Sys2Proof Sys2Proof.Machine

/-! ### The law of a notice unit (R184, R186) -/

/-- The index of a notice is one of its kind (R184). -/
theorem pair_index_lt (n : Notice) : n.pair.index < n.pair.kind.indices := by
  cases n <;> simp [Notice.pair, NoticeKind.indices]

/-- A pair joins the latched set unless it is in it, and the alarm line is asserted with it (R186). -/
theorem NoticeLaw.latch {u : NoticeUnit} (h : NoticeLaw u) (n : Notice) : NoticeLaw (u.latch n) := by
  obtain ⟨hnodup, hindex, -, hset⟩ := id h
  unfold NoticeUnit.latch
  split
  · refine ⟨?_, fun x hx => ?_, ?_, ?_⟩
    · dsimp only
      split
      · exact hnodup
      · next hnew => exact List.concat_eq_append ▸ hnodup.concat hnew
    · have hmem : x ∈ u.latched ∨ x = n.pair := by
        dsimp only at hx
        split at hx
        · exact .inl hx
        · simpa using hx
      rcases hmem with hmem | rfl
      · exact hindex x hmem
      · exact pair_index_lt n
    · dsimp only
      split
      · next hmem => simp [List.ne_nil_of_mem hmem]
      · simp
    · cases n <;> simp [hset]
  · exact h

theorem NoticeLaw.latchAll {u : NoticeUnit} (h : NoticeLaw u) (l : List Notice) : NoticeLaw (l.foldl NoticeUnit.latch u) :=
  List.foldlRecOn l _ h fun _ hu n _ => hu.latch n

/-- NOTICES_CLEAR releases the alarm line when the set becomes empty (R186, R188). -/
theorem NoticeLaw.clear {u : NoticeUnit} (h : NoticeLaw u) (pairs : List NoticePair) : NoticeLaw (u.clear pairs) := by
  obtain ⟨hnodup, hindex, -, hset⟩ := h
  refine ⟨hnodup.filter _, fun x hx => hindex x (List.mem_of_mem_filter hx), ?_, hset⟩
  simp [NoticeUnit.clear]

/-- NOTICE_CONFIG writes a setting, of which the law does not speak (R185). -/
theorem NoticeLaw.configure {u : NoticeUnit} (h : NoticeLaw u) (k : NoticeKind) (x : Setting) :
    NoticeLaw (u.configure k x) := by
  unfold NoticeUnit.configure
  split <;> exact h

/-! ### The law of mastership (R176) -/

theorem MasterLaw.grant (m : Mastership) (sp : SupPort) : MasterLaw (m.grant sp) :=
  ⟨nofun, fun _ => nofun, nofun⟩

theorem MasterLaw.release (m : Mastership) : MasterLaw m.release :=
  ⟨fun _ => ⟨rfl, rfl, rfl, rfl⟩, fun h => absurd rfl h, nofun⟩

/-- A token from the holder arms the unit only as it moves the pointer to EXPECT_B (R179). -/
theorem MasterLaw.token {m : Mastership} (h : MasterLaw m) {sp : SupPort} (hs : m.holder = some sp) (t : TokenPtr) :
    MasterLaw (m.token t).1 := by
  obtain ⟨-, htimer, -⟩ := h
  unfold Mastership.token MasterLaw
  split <;> simp_all

theorem MasterLaw.alert {m : Mastership} (h : MasterLaw m) (ht : m.timer.isSome = true) :
    MasterLaw { m with health := .alerted, timer := some m.period } := by
  obtain ⟨hnone, -, harmed⟩ := h
  refine ⟨fun hn => ?_, fun _ => nofun, harmed⟩
  obtain ⟨-, -, -, htimer⟩ := hnone hn
  simp [htimer] at ht

theorem MasterLaw.period {m : Mastership} (h : MasterLaw m) (p : Period) : MasterLaw { m with period := p } := h

end Sys2Proof.Safety

namespace Sys2Proof.Machine

open Sys2Proof Sys2Proof.Safety

/-! ### Events that leave the notice units and the mastership unit alone -/

/-- What the supervisors hold beside their management ports: the mastership unit and the notice units. -/
def State.supervision (s : State) : Mastership × PerSup NoticeUnit := (s.master, s.units)

theorem Event.SharedSame.supervision {c d : Event} (h : c.SharedSame d) : d.supervision = c.supervision := by
  obtain ⟨-, -, hmaster, hunits, -, -⟩ := h
  simp [State.supervision, hmaster, hunits]

section

variable (c : Event) (p : PortId)

@[simp] theorem Event.modPort_supervision (f : Port → Port) : (c.modPort p f).supervision = c.supervision := rfl
@[simp] theorem Event.modArbiter_supervision (f : Arbiter → Arbiter) : (c.modArbiter p f).supervision = c.supervision := rfl
@[simp] theorem Event.count_supervision (k : Counter) : (c.count p k).supervision = c.supervision := rfl
@[simp] theorem Event.free_supervision (k : Key) (n : Nat) : (c.free p k n).supervision = c.supervision :=
  (c.free_shared p k n).supervision
@[simp] theorem Event.evaluate_supervision : (c.evaluate p).supervision = c.supervision := (c.evaluate_shared p).supervision
@[simp] theorem Event.setWaiting_supervision (n : Nat) : (c.setWaiting p n).supervision = c.supervision :=
  (c.setWaiting_shared p n).supervision
@[simp] theorem Event.pickCheck_supervision : (c.pickCheck p).supervision = c.supervision :=
  (c.pickCheck_shared p).supervision
@[simp] theorem Event.drainChecks_supervision (n : Nat) (l : List PortId) :
    (c.drainChecks n l).supervision = c.supervision := (c.drainChecks_shared n l).supervision
@[simp] theorem Event.outputUnavailable_supervision : (c.outputUnavailable p).supervision = c.supervision :=
  (c.outputUnavailable_shared p).supervision
@[simp] theorem Event.guardFault_supervision (k : FaultKind) : (c.guardFault p k).supervision = c.supervision :=
  (c.guardFault_shared p k).supervision
@[simp] theorem Event.clearGuard_supervision : (c.clearGuard p).supervision = c.supervision :=
  (c.clearGuard_shared p).supervision
@[simp] theorem Event.enterDown_supervision : (c.enterDown p).supervision = c.supervision :=
  (c.enterDown_shared p).supervision
@[simp] theorem Event.enterUp_supervision (good : Nat) : (c.enterUp p good).supervision = c.supervision :=
  (c.enterUp_shared p good).supervision
@[simp] theorem Event.markHead_supervision : (c.markHead p).supervision = c.supervision :=
  (c.markHead_shared p).supervision
@[simp] theorem Event.enable_supervision : (c.enable p).1.supervision = c.supervision := (c.enable_shared p).supervision
@[simp] theorem Event.drain_supervision : (c.drain p).supervision = c.supervision := (c.drain_shared p).supervision
@[simp] theorem Event.disable_supervision : (c.disable p).supervision = c.supervision := (c.disable_shared p).supervision
@[simp] theorem Event.resetPort_supervision : (c.resetPort p).supervision = c.supervision :=
  (c.resetPort_leavesShared p).supervision
@[simp] theorem Event.fabricReset_supervision : c.fabricReset.supervision = c.supervision :=
  c.fabricReset_shared.supervision
@[simp] theorem Event.meterDeparture_supervision (d : Departed) : (c.meterDeparture p d).supervision = c.supervision := by
  rw [(c.meterDeparture_raises p d).1]
  rfl

@[simp] theorem Event.depart_supervision (src : Source) : (c.depart p src).supervision = c.supervision := by
  unfold Event.depart Event.complete
  dsimp only
  split <;> simp

@[simp] theorem Event.place_supervision (h : Header) (payload : List Byte) :
    (c.place p h payload).supervision = c.supervision := by
  unfold Event.place
  split
  · dsimp only
    split
    · exact (c.discardCharged_shared _ _ _).supervision
    · split
      · exact (Event.discardCharged_shared _ _ _ _).supervision
      · exact (Event.acceptCopies_shared _ _ _ _ _).supervision
  · split
    · dsimp only
      split
      · exact (c.acceptCell_shared _ _ _ _).supervision
      · exact (c.discardCharged_shared _ _ _).supervision
    · rfl

@[simp] theorem Event.classify_supervision (data : List Byte) (closed : CellEnd) :
    (c.classify p data closed).supervision = c.supervision := by
  unfold Event.classify
  dsimp only
  repeat' split
  all_goals simp [Event.discard, Event.charge, Event.discardCharged]

end

/-! ### Every command keeps the laws of the notice units and of mastership -/

/-- Each notice unit lawful in `s` is lawful in `t`, and so is the mastership unit. -/
structure State.KeepsSupervision (s t : State) : Prop where
  units : ∀ sp, NoticeLaw (s.units.get sp) → NoticeLaw (t.units.get sp)
  master : MasterLaw s.master → MasterLaw t.master

theorem State.KeepsSupervision.refl (s : State) : s.KeepsSupervision s := ⟨fun _ => id, id⟩

/-- The end of an event latches its notices, which keeps the law of every unit (R186). -/
theorem State.KeepsSupervision.finish {s : State} {c : Event} (h : s.KeepsSupervision c.toState) :
    s.KeepsSupervision c.finish where
  units sp hu := by
    rw [Event.finish_units]
    have hlaw := h.units sp hu
    cases sp <;> exact hlaw.latchAll _
  master hm := c.finish_master ▸ h.master hm

theorem State.KeepsSupervision.of_eq {s : State} {c : Event} (h : c.supervision = s.supervision) :
    s.KeepsSupervision c.finish := by
  obtain ⟨hmaster, hunits⟩ := Prod.mk.inj h
  exact .finish ⟨fun sp hu => hunits ▸ hu, fun hm => hmaster ▸ hm⟩

/-- One notice unit replaced. -/
theorem State.KeepsSupervision.setUnit {s : State} {sp : SupPort} {u : NoticeUnit}
    (h : NoticeLaw (s.units.get sp) → NoticeLaw u) : s.KeepsSupervision ((Event.start s).setUnit sp u).finish := by
  refine .finish ⟨fun sq hq => ?_, id⟩
  show NoticeLaw ((s.units.put sp u).get sq)
  by_cases e : sq = sp
  · subst e
    rw [PerSup.get_put_self]
    exact h hq
  · rw [PerSup.get_put_ne _ _ e]
    exact hq

/-- The mastership unit replaced, with a notice or without. -/
theorem State.KeepsSupervision.setMaster {s : State} {c : Event} {m : Mastership}
    (hc : c.toState = { s with master := m }) (h : MasterLaw s.master → MasterLaw m) : s.KeepsSupervision c.finish := by
  refine .finish ?_
  rw [hc]
  exact ⟨fun _ => id, h⟩

section

variable {s : State}

theorem Ends.supervision {c : Event} (h : c.supervision = s.supervision) : Ends s.KeepsSupervision (.next c.finish) :=
  .next (.of_eq h)

theorem Ends.answered_supervision {a : Answer} {sp : SupPort} {code : Byte}
    (ha : a.Leads fun c => s.KeepsSupervision c.finish) : Ends s.KeepsSupervision (.next (s.answered sp code a)) :=
  .next (State.answered_induct s.KeepsSupervision (fun _ _ _ _ _ h => ⟨h.units, h.master⟩) (.refl s) ha sp code)

/-- A command for the holder alone, whose event, where it is carried out, is one that keeps the laws. -/
theorem Ends.held_supervision {a : Answer} {sp : SupPort} {code : Byte}
    (ha : s.master.holder = some sp → a.Leads fun c => s.KeepsSupervision c.finish) :
    Ends s.KeepsSupervision (.next (s.answered sp code (s.holderOnly sp a))) :=
  .answered_supervision ((Answer.leads_holderOnly _ _ _ _).2 ha)

/-- What leads to events that leave the units alone leads to events that keep their laws. -/
theorem Answer.Leads.keepsSupervision {a : Answer} (ha : a.Leads fun c => c.supervision = s.supervision) :
    a.Leads fun c => s.KeepsSupervision c.finish := by
  cases a with
  | done c d => exact State.KeepsSupervision.of_eq ha
  | deny st d => trivial

theorem Ends.read_supervision {a : Answer} {sp : SupPort} {code : Byte}
    (ha : a.Leads fun c => c.supervision = s.supervision) : Ends s.KeepsSupervision (.next (s.answered sp code a)) :=
  .answered_supervision ha.keepsSupervision

theorem Ends.same_supervision {a : Answer} {sp : SupPort} {code : Byte}
    (ha : a.Leads fun c => c.supervision = s.supervision) :
    Ends s.KeepsSupervision (.next (s.answered sp code (s.holderOnly sp a))) :=
  .held_supervision fun _ => ha.keepsSupervision

/-- The commands that write a notice unit's settings or latched set, or the mastership unit. -/
def writesSupervision : Instr → Bool
  | .powerUpReset | .mastershipTimerExpiry | .noticesClear _ _ | .noticeConfig _ _ | .claim _ _ | .relinquish _ _
  | .keepalive _ _ | .timerPeriod _ _ => true
  | _ => false

/-- Under every other command the mastership unit stays as it is, and the notice units take notices at most. -/
theorem exec_supervision (i : Instr) (s : State) (hi : writesSupervision i = false) :
    Ends s.KeepsSupervision (exec i s) := by
  have idle : Ends s.KeepsSupervision (.next s) := .next (.refl s)
  cases i
  case idleReceived | wordDropped | abortedCell => exact idle
  case transactionAbandoned => exact .next ⟨fun _ => id, id⟩
  case lockAcquired | controlErrorWord | cellReceptionComplete | unitBoundary | departure | creditWordCompletion |
      resyncCompletion | congestionWordCompletion | holdTimerExpiry =>
    dsimp only [exec, execLockAcquired, execControlErrorWord, execCellReceptionComplete, execUnitBoundary, execDeparture,
      execCreditWordCompletion, execResyncCompletion, execCongestionWordCompletion, execHoldTimerExpiry]
    split
    · exact .supervision (by simp)
    · exact idle
  case lockLost p cut =>
    show Ends _ (execLockLost p cut s)
    unfold execLockLost
    split
    · dsimp only
      split <;> exact .supervision (by simp)
    · exact idle
  case markerReceived p word =>
    show Ends _ (execMarkerReceived p word s)
    unfold execMarkerReceived
    dsimp only
    split
    · split
      · exact idle
      · exact .supervision (by simp)
      · split
        · split <;> exact .supervision (by simp)
        · exact .supervision (by simp)
      · split
        · exact .supervision (by simp)
        · split <;> exact .supervision (by simp)
    · exact idle
  case hold p =>
    show Ends _ (execHold p s)
    unfold execHold
    split
    · split
      · exact .supervision (by simp)
      · exact .supervision (by simp)
      all_goals exact idle
    · exact idle
  case release p =>
    show Ends _ (execRelease p s)
    unfold execRelease
    split
    · split
      · split <;> exact .supervision (by simp)
      · exact .supervision (by simp)
      all_goals exact idle
    · exact idle
  case unknownCommand sp record =>
    show Ends _ (execUnknownCommand sp record s)
    unfold execUnknownCommand
    split
    · split
      · exact .read_supervision trivial
      · split
        · exact idle
        · exact .read_supervision trivial
    · exact idle
  case status | portRead | queueRead | replicationRead | creditRead | groupRead | groupProbe | arbiterRead |
      monitorRead | meterRead | countersRead | noticesRead =>
    refine .read_supervision ?_
    split <;> simp
  case portAdminEnable | portAdminDrain | portAdminDisable | portReset | linkParams | guardResume | weightStage |
      expressSet | holdLimit | thresholds | countersClear | fabricReset | guardSet =>
    refine .same_supervision ?_
    split <;> simp
  case groupRemove | groupRemoveId | groupFlush | meterStart | meterStop | meterCapture =>
    refine .same_supervision ?_
    split <;> simp [State.supervision]
  case portResync =>
    refine .same_supervision ?_
    split
    · rw [Answer.leads_below]
      intro h
      split <;> simp
    · trivial
  case weightStageRow =>
    refine .same_supervision ?_
    split
    · split <;> simp
    · trivial
  case groupInstall =>
    refine .same_supervision ?_
    split
    · simp only [Answer.leads_below, Answer.leads_named]
      intros
      split <;> simp [State.supervision]
    · trivial
  case meterSet =>
    refine .same_supervision ?_
    split
    · simp only [Answer.leads_below, Answer.leads_meterSelector, Answer.leads_named]
      intros
      split <;> simp [State.supervision]
    · trivial
  all_goals cases hi

/-- Every command keeps the law of each notice unit and of the mastership unit. -/
theorem exec_keepsSupervision (i : Instr) (s : State) : Ends s.KeepsSupervision (exec i s) := by
  cases i
  case powerUpReset =>
    refine .next ⟨fun sp _ => ?_, fun _ => MasterLaw.release Mastership.powerUp⟩
    cases sp <;> exact noticeLaw_powerUp
  case mastershipTimerExpiry =>
    show Ends _ (execMastershipTimerExpiry s)
    unfold execMastershipTimerExpiry
    split
    · next ht =>
      split
      · exact .next (.setMaster rfl fun hm => hm.alert ht)
      · exact .next (.setMaster rfl fun _ => .release _)
    · exact .next (.refl s)
  case noticesClear =>
    refine .answered_supervision ?_
    split
    · trivial
    · split
      · trivial
      split
      · trivial
      split
      · trivial
      · exact .setUnit fun hu => hu.clear _
  case noticeConfig =>
    refine .answered_supervision ?_
    split
    · simp only [Answer.leads_named, Answer.leads_done]
      exact fun k _ x _ => .setUnit fun hu => hu.configure k x
    · trivial
  case claim =>
    refine .answered_supervision ?_
    split
    · split
      · exact .setMaster rfl fun _ => .grant _ _
      · split
        · exact .of_eq rfl
        · trivial
    · trivial
  case relinquish =>
    refine .held_supervision fun _ => ?_
    split
    · exact .setMaster rfl fun _ => .release _
    · trivial
  case keepalive =>
    refine .held_supervision fun hs => ?_
    split
    · rw [Answer.leads_named]
      exact fun t _ => .setMaster rfl fun hm => hm.token hs t
    · trivial
  case timerPeriod =>
    refine .held_supervision fun _ => ?_
    split
    · rw [Answer.leads_named]
      exact fun p _ => .setMaster rfl fun hm => hm.period p
    · trivial
  all_goals exact exec_supervision _ s rfl

end

end Sys2Proof.Machine

namespace Sys2Proof.Proofs

open Sys2Proof Sys2Proof.Machine Sys2Proof.Safety

/-- Settles O53: each command keeps the law of each notice unit and of the mastership unit, so every step keeps the laws of
all. -/
theorem stepKeepsNoticesAndMastership : Obligations.StepKeepsNoticesAndMastership := by
  refine ⟨fun s t hs ht => ?_, fun s t hs ht => ?_⟩
  · exact step_keeps (I := fun s => ∀ sp, NoticeLaw (s.units.get sp)) (fun _ _ h => h)
      (fun i s h t ht sp => (exec_keepsSupervision i s t ht).units sp (h sp)) hs ht
  · exact step_keeps (I := fun s => MasterLaw s.master) (fun _ _ h => h)
      (fun i s h t ht => (exec_keepsSupervision i s t ht).master h) hs ht

end Sys2Proof.Proofs

/-! # Mastership, and the order of the tests (O42, O43, O44, O46) -/

namespace Sys2Proof.Machine

open Sys2Proof Sys2Proof.Safety

/-! ### CLAIM and KEEPALIVE from the holder (R177, R179) -/

section

variable {s : State} {sp : SupPort}

/-- The holder has nothing to claim (R177). -/
theorem Mastership.grants_holder {m : Mastership} (h : m.holder = some sp) : m.grants sp = false := by
  simp [Mastership.grants, h]

theorem exec_claim_holder (hs : s.master.holder = some sp) :
    exec (.claim sp []) s = .next (s.respond sp 0x10#8 .ok (.claim false)) := by
  show Host.Outcome.next (s.answered sp 0x10#8 (if s.master.grants sp then _ else _)) = _
  rw [if_neg (by simp [Mastership.grants_holder hs]), if_pos hs, State.answered_reads]

/-- KEEPALIVE from the holder moves the unit as its token does, and answers with what the token did (R179). -/
theorem exec_keepalive_held (hs : s.master.holder = some sp) {code : Byte} {t : TokenPtr} (ht : tokenArg code = some t)
    {m : Mastership} {restarted : Bool} (hm : s.master.token t = (m, restarted)) :
    exec (.keepalive sp [code]) s =
      .next (({ s with master := m } : State).respond sp 0x12#8 .ok (.keepalive restarted m.pointer)) := by
  show Host.Outcome.next (s.answered sp 0x12#8 (s.holderOnly sp (named 1 (tokenArg code) _))) = _
  rw [State.holderOnly_holder s sp _ hs, ht, named_some, hm, State.answered_done, Event.finish_of_quiet _ rfl rfl]
  rfl

end

/-! ### The tests of mastership and of length (R171, tests 3 and 4) -/

/-- A command for the holder alone answers by the test of mastership, and after it by that of the length (R171). -/
theorem exec_of_holderCommand {c : Instr} {sp : SupPort} {code : Byte} (hc : holderCommand c = some (sp, code)) (s : State) :
    ∃ a, exec c s = .next (s.answered sp code (s.holderOnly sp a)) ∧
      ∀ n args, holderLength c = some (n, args) → args.length ≠ n → a = badLength := by
  cases c
  case weightStageRow =>
    cases hc
    refine ⟨_, rfl, fun n args h hn => ?_⟩
    cases h
    split
    · exact if_neg fun h => hn (congrArg Nat.succ h)
    · rfl
  case relinquish | keepalive | portAdminEnable | portAdminDrain | portAdminDisable | portReset | portResync | linkParams |
      guardSet | guardResume | groupInstall | groupRemove | groupRemoveId | groupFlush | weightStage | expressSet |
      holdLimit | thresholds | meterSet | meterStart | meterStop | meterCapture | countersClear | timerPeriod |
      fabricReset =>
    cases hc
    refine ⟨_, rfl, fun n args h hn => ?_⟩
    cases h
    split
    · exact absurd rfl hn
    · rfl
  all_goals cases hc

/-- A reading command answers by the test of its length (R171). -/
theorem exec_of_openCommand {c : Instr} {sp : SupPort} {code : Byte} {n : Nat} {args : List Byte}
    (hc : openCommand c = some (sp, code, n, args)) (s : State) :
    ∃ a, exec c s = .next (s.answered sp code a) ∧ (args.length ≠ n → a = badLength) := by
  cases c
  case status | portRead | queueRead | replicationRead | creditRead | groupRead | groupProbe | arbiterRead | monitorRead |
      meterRead | countersRead | noticesRead | noticeConfig | claim =>
    cases hc
    refine ⟨_, rfl, fun hn => ?_⟩
    split
    · exact absurd rfl hn
    · rfl
  all_goals cases hc

end Sys2Proof.Machine

namespace Sys2Proof.Proofs

open Sys2Proof Sys2Proof.Machine Sys2Proof.Safety

/-- Settles O42: the grant, the holder's own claim and the refusal, each by the holder and its health. -/
theorem claimIsDecidedByHolderAndHealth : Obligations.ClaimIsDecidedByHolderAndHealth := by
  intro s sp m taken
  refine ⟨fun h => exec_claim_granted ?_, exec_claim_holder, fun hn hne hh => exec_claim_refused ?_ hne⟩
  · rcases h with hn | ⟨hne, hh⟩
    · exact Mastership.grants_none hn
    · cases hm : s.master.holder with
      | none => exact Mastership.grants_none hm
      | some q => exact (Mastership.grants_other hm fun e => hne (hm.trans (congrArg some e.symm))).2 hh
  · obtain ⟨q, hm⟩ := Option.ne_none_iff_exists'.1 hn
    rw [Mastership.grants_other hm fun e => hne (hm.trans (congrArg some e.symm)), show s.master.health = .healthy from hh]
    exact nofun

/-- Settles O43: the test of mastership decides, and the holder's release is written. -/
theorem relinquishGivesUpMastership : Obligations.RelinquishGivesUpMastership := by
  intro s sp args
  refine ⟨exec_relinquish_held, fun hs => ?_⟩
  obtain ⟨a, ha, -⟩ := exec_of_holderCommand (c := .relinquish sp args) rfl s
  rw [ha, State.holderOnly_other s sp a hs, State.answered_deny]

/-- Settles O44: each row of the token table, each health of an expiry, and the period written beside a timer that runs on. -/
theorem keepaliveTimerAndPeriod : Obligations.KeepaliveTimerAndPeriod := by
  refine ⟨?_, fun s => ⟨exec_expiry_healthy, exec_expiry_alerted, fun sp code period hs h =>
    exec_timerPeriod hs (periodArg_of_mem h)⟩⟩
  intro s sp hs m done
  have tokenA {m' restarted} (h : m.token .expectA = (m', restarted)) :
      exec (.keepalive sp [0#8]) s = .next (done m' restarted) := exec_keepalive_held hs rfl h
  have tokenB {m' restarted} (h : m.token .expectB = (m', restarted)) :
      exec (.keepalive sp [1#8]) s = .next (done m' restarted) := exec_keepalive_held hs rfl h
  refine ⟨fun hp => tokenA ?_, fun hp => tokenA ?_, fun hp ha => tokenB ?_, fun hp ha => tokenB ?_, fun hp => tokenB ?_⟩
  all_goals simp [Mastership.token, *]

/-- Settles O46: a command answers by its tests in their order, and a denied answer changes the response alone. -/
theorem mastershipAndLengthAreTestedFirst : Obligations.MastershipAndLengthAreTestedFirst := by
  refine ⟨fun c s sp code hc hs => ?_, fun c s sp code n args hc hn => ?_, fun c s sp code n args hc hl hs hn => ?_,
    fun s sp => ⟨rfl, fun count rest hn => ?_⟩⟩
  · obtain ⟨a, ha, -⟩ := exec_of_holderCommand hc s
    rw [ha, State.holderOnly_other s sp a hs, State.answered_deny]
  · obtain ⟨a, ha, hbad⟩ := exec_of_openCommand hc s
    rw [ha, hbad hn]
    rfl
  · obtain ⟨a, ha, hbad⟩ := exec_of_holderCommand hc s
    rw [ha, State.holderOnly_holder s sp a hs, hbad n args hl hn]
    rfl
  · show Host.Outcome.next (s.answered sp 0x0D#8 (if _ then badLength else _)) = _
    rw [if_pos hn]
    rfl

end Sys2Proof.Proofs

/-! # Records on the management ports (O7, O45) -/

namespace Sys2Proof.Machine

open Sys2Proof Sys2Proof.Safety

/-! ### Records and the commands they spell (R169, R171, R173) -/

/-- A code that R173 does not list names no command (R171, test 2). -/
theorem commandOf_eq_none {code : Byte} (h : code ∉ commandCodes) (sp : SupPort) (args : List Byte) :
    commandOf sp code args = none := by
  unfold commandOf
  split
  case h_40 => rfl
  all_goals
    next hcode => simp [commandCodes, ← BitVec.toNat_inj, hcode] at h

/-- A record as the encoder makes it spells its command, whatever stands after it (R167, R169). -/
theorem decodeRecord_recordOf {sp : SupPort} {code : Byte} {args : List Byte} {i : Instr} (hfit : args.length ≤ 255)
    (hi : commandOf sp code args = some i) (after : List Byte) :
    decodeRecord sp (recordOf code args ++ after) = some i := by
  simp [decodeRecord, firstRecord_append (recordOf_complete code hfit), hi]

/-- A complete record whose check fails or whose code names no command is UNKNOWN_COMMAND (R171, tests 1 and 2). -/
theorem decodeRecord_unknown {record : List Byte} (hc : recordComplete record = true)
    (h : checkPasses record = false ∨ byteAt record 0 ∉ commandCodes) (sp : SupPort) (after : List Byte) :
    decodeRecord sp (record ++ after) = some (.unknownCommand sp record) := by
  have hnone : checkPasses record = true → commandOf sp (byteAt record 0) (recordArgs record) = none := fun hpass =>
    commandOf_eq_none (h.resolve_left (by simp [hpass])) sp _
  cases hpass : checkPasses record <;> simp_all [decodeRecord, firstRecord_append]

/-- No command is there before the last byte of a record (R167). -/
theorem decodeRecord_take {record : List Byte} (hc : recordComplete record = true) (sp : SupPort) {n : Nat}
    (hn : n < record.length) : decodeRecord sp (record.take n) = none := by
  simp [decodeRecord, firstRecord_take hc hn]

/-- The action bytes of a PORT_ADMIN row that names neither DRAIN nor DISABLE belong to the ENABLE row (R173). -/
theorem commandOf_enable {args : List Byte} (h1 : namesAction 1#8 args = false) (h2 : namesAction 2#8 args = false)
    (sp : SupPort) : commandOf sp 0x20#8 args = some (.portAdminEnable sp args) := by
  show (match args with
    | [_, 1#8] => some (Instr.portAdminDrain sp args)
    | [_, 2#8] => some (.portAdminDisable sp args)
    | _ => some (.portAdminEnable sp args)) = _
  split
  · cases h1
  · cases h2
  · rfl

theorem commandOf_drain {args : List Byte} (h : namesAction 1#8 args = true) (sp : SupPort) :
    commandOf sp 0x20#8 args = some (.portAdminDrain sp args) := by
  unfold namesAction at h
  split at h
  · obtain rfl := eq_of_beq h
    rfl
  · cases h

theorem commandOf_disable {args : List Byte} (h : namesAction 2#8 args = true) (sp : SupPort) :
    commandOf sp 0x20#8 args = some (.portAdminDisable sp args) := by
  unfold namesAction at h
  split at h
  · obtain rfl := eq_of_beq h
    rfl
  · cases h

/-- The record of a well-formed command is complete and spells the command, whatever stands after it (R167, R169, R173). -/
theorem recordOfInstr_decodes {i : Instr} {sp : SupPort} {record : List Byte} (hw : i.wf = true)
    (hr : recordOfInstr i = some (sp, record)) :
    recordComplete record = true ∧ ∀ after, decodeRecord sp (record ++ after) = some i := by
  have encoded {code : Byte} {args : List Byte} (hfit : args.length ≤ 255) (hi : commandOf sp code args = some i) :
      recordComplete (recordOf code args) = true ∧ ∀ after, decodeRecord sp (recordOf code args ++ after) = some i :=
    ⟨recordOf_complete code hfit, decodeRecord_recordOf hfit hi⟩
  cases i
  case unknownCommand =>
    cases hr
    simp only [Instr.wf, Bool.and_eq_true, Bool.or_eq_true, Bool.not_eq_true', List.contains_eq_mem,
      decide_eq_false_iff_not] at hw
    obtain ⟨hc, h⟩ := hw
    exact ⟨hc, decodeRecord_unknown hc h sp⟩
  case portAdminEnable =>
    cases hr
    simp only [Instr.wf, Bool.and_eq_true, Bool.not_eq_true'] at hw
    obtain ⟨⟨hfit, hdrain⟩, hdisable⟩ := hw
    exact encoded (argsFit_length hfit) (commandOf_enable hdrain hdisable sp)
  case portAdminDrain =>
    cases hr
    exact encoded (by rw [length_of_namesAction hw]; decide) (commandOf_drain hw sp)
  case portAdminDisable =>
    cases hr
    exact encoded (by rw [length_of_namesAction hw]; decide) (commandOf_disable hw sp)
  case status | portRead | queueRead | replicationRead | creditRead | groupRead | groupProbe | arbiterRead | monitorRead |
      meterRead | countersRead | noticesRead | noticesClear | noticeConfig | claim | relinquish | keepalive | portReset |
      portResync | linkParams | guardSet | guardResume | groupInstall | groupRemove | groupRemoveId | groupFlush |
      weightStage | weightStageRow | expressSet | holdLimit | thresholds | meterSet | meterStart | meterStop |
      meterCapture | countersClear | timerPeriod | fabricReset =>
    cases hr
    exact encoded (argsFit_length hw) rfl
  all_goals cases hr

/-! ### Bits cut short (R167) -/

theorem length_flatMap_shiftedBits (bytes : List Byte) : (bytes.flatMap shiftedBits).length = 8 * bytes.length := by
  simp [List.length_flatMap, shiftedBits, Nat.mul_comm]

/-- The first bits of a run of bytes shift its first whole bytes in (R167). -/
theorem shiftedBytes_take (bytes : List Byte) (n : Nat) :
    shiftedBytes ((bytes.flatMap shiftedBits).take n) = bytes.take (n / 8) := by
  induction bytes generalizing n with
  | nil => simp [shiftedBytes]
  | cons b bytes ih =>
    rcases Nat.lt_or_ge n 8 with hn | hn
    · rw [Nat.div_eq_of_lt hn, List.take_zero]
      exact shiftedBytes_of_short ((List.length_take_le _ _).trans_lt hn)
    · obtain ⟨m, rfl⟩ := Nat.exists_eq_add_of_le' hn
      have hbits : ((b :: bytes).flatMap shiftedBits).take (m + 8) =
          [b].flatMap shiftedBits ++ (bytes.flatMap shiftedBits).take m := rfl
      rw [hbits, shiftedBytes_append, ih, Nat.add_div_right m (by decide)]
      rfl

/-- The first bits of a run of bytes are those of its first bytes (R167). -/
theorem take_flatMap_shiftedBits (bytes : List Byte) {n j : Nat} (h : n ≤ 8 * j) :
    (bytes.flatMap shiftedBits).take n = ((bytes.take j).flatMap shiftedBits).take n := by
  conv_lhs => rw [← List.take_append_drop j bytes, List.flatMap_append]
  rcases Nat.le_total j bytes.length with hj | hj
  · exact List.take_append_of_le_length (by rw [length_flatMap_shiftedBits, List.length_take_of_le hj]; exact h)
  · rw [List.drop_eq_nil_of_le hj, List.flatMap_nil, List.append_nil]

/-! ### What data-out carries (R167) -/

/-- The bytes shifted in begin with a complete record exactly where that is their command record (R167, R169). -/
theorem firstRecord_eq_some {din record : List Byte} :
    firstRecord din = some record ↔ recordComplete record = true ∧ record <+: din := by
  constructor
  · intro h
    unfold firstRecord at h
    split at h
    · next c n rest =>
      split at h
      · next hlen =>
        obtain rfl := Option.some.inj h
        refine ⟨?_, List.take_prefix _ _⟩
        have hlen' : n.toNat + 1 ≤ rest.length := by simpa using hlen
        simp [recordComplete, List.take_succ_cons, hlen']
      · cases h
    · cases h
  · rintro ⟨hc, after, rfl⟩
    exact firstRecord_append hc after

/-- The byte that data-out carries at place `n` of a transaction (R167). -/
def SpiPort.outByte (p : SpiPort) (din : List Byte) (wait n : Nat) : Byte :=
  match firstRecord din with
  | none => 0xFF#8
  | some record => if n < record.length + wait then 0xFF#8 else p.driven.getD (n - (record.length + wait)) 0xFF#8

/-- A run of bytes that stands behind `k` bytes of fill and before further fill, place by place. -/
theorem take_filled (x : Byte) (l : List Byte) (k m : Nat) :
    (List.replicate k x ++ l ++ List.replicate m x).take m =
      (List.range m).map fun n => if n < k then x else l.getD (n - k) x := by
  refine List.ext_getElem (by simp; omega) fun n hn _ => ?_
  simp only [List.getElem_take, List.getElem_map, List.getElem_range, List.getElem_append, List.getElem_replicate,
    List.length_append, List.length_replicate, List.getD_eq_getElem?_getD]
  grind

theorem SpiPort.dataOut_eq (p : SpiPort) (din : List Byte) (wait : Nat) :
    p.dataOut din wait = (List.range din.length).map (p.outByte din wait) := by
  have hbyte : p.outByte din wait = fun n => match firstRecord din with
    | none => 0xFF#8
    | some record => if n < record.length + wait then 0xFF#8 else p.driven.getD (n - (record.length + wait)) 0xFF#8 := rfl
  rw [hbyte]
  unfold SpiPort.dataOut
  cases firstRecord din with
  | none => simp
  | some record => exact take_filled _ _ _ _

/-- Byte `n` of data-out is told by the bytes shifted in before it (R167). -/
theorem SpiPort.outByte_congr {din din' : List Byte} {n : Nat}
    (h : ∀ record : List Byte, record.length ≤ n → (record <+: din ↔ record <+: din')) (p : SpiPort) (wait : Nat) :
    p.outByte din wait n = p.outByte din' wait n := by
  have late {a b : List Byte} (hab : ∀ record : List Byte, record.length ≤ n → record <+: a → record <+: b)
      {record : List Byte} (ha : firstRecord a = some record) (hn : record.length + wait ≤ n) :
      firstRecord b = some record := by
    obtain ⟨hc, hp⟩ := firstRecord_eq_some.1 ha
    exact firstRecord_eq_some.2 ⟨hc, hab record (by omega) hp⟩
  have early {a : List Byte} (ha : ∀ record, firstRecord a = some record → n < record.length + wait) :
      p.outByte a wait n = 0xFF#8 := by
    unfold SpiPort.outByte
    split
    · rfl
    · next record hr => exact if_pos (ha record hr)
  by_cases hdone : ∃ record, firstRecord din = some record ∧ record.length + wait ≤ n
  · obtain ⟨record, hr, hn⟩ := hdone
    unfold SpiPort.outByte
    rw [hr, late (fun r hr => (h r hr).1) hr hn]
  · have hnone (record) (hr : firstRecord din = some record) : n < record.length + wait :=
      Nat.lt_of_not_le fun hn => hdone ⟨record, hr, hn⟩
    rw [early hnone, early fun record hr => Nat.lt_of_not_le fun hn =>
      hdone ⟨record, late (fun r hr => (h r hr).2) hr hn, hn⟩]

/-- What is told of data-out while a further byte is under way stands once it is known (R167). -/
theorem SpiPort.dataOut_take (p : SpiPort) (din : List Byte) (wait m : Nat) (b : Byte) :
    (p.dataOut (din.take m ++ [b]) wait).take (min (m + 1) din.length) =
      (p.dataOut din wait).take (min (m + 1) din.length) := by
  rw [SpiPort.dataOut_eq, SpiPort.dataOut_eq, ← List.map_take, ← List.map_take, List.take_range, List.take_range]
  have hlen : min (min (m + 1) din.length) (din.take m ++ [b]).length = min (min (m + 1) din.length) din.length := by
    simp only [List.length_append, List.length_take, List.length_singleton]
    omega
  rw [hlen]
  refine List.map_congr_left fun n hn => SpiPort.outByte_congr (fun record hr => ?_) p wait
  have hn' : n ≤ (din.take m).length := by
    simp only [List.mem_range] at hn
    simp only [List.length_take]
    omega
  -- a record of at most `n` bytes at the head of either stands within the bytes that both begin with
  have within {l : List Byte} (hl : din.take m <+: l) : record <+: l ↔ record <+: din.take m :=
    ⟨fun h => List.prefix_of_prefix_length_le h hl (hr.trans hn'), fun h => h.trans hl⟩
  rw [within (List.prefix_append _ _), within (List.take_prefix _ _)]

/-- The bits of data-out are those of its bytes, the most significant first (R167). -/
theorem SpiPort.dataOutBits_take (p : SpiPort) (din : List Byte) (wait n : Nat) :
    p.dataOutBits ((din.flatMap shiftedBits).take n) wait = ((p.dataOut din wait).flatMap shiftedBits).take n := by
  unfold SpiPort.dataOutBits
  rw [shiftedBytes_take, List.length_take, length_flatMap_shiftedBits]
  have hlen : (p.dataOut din wait).length = din.length := by simp [SpiPort.dataOut_eq]
  have hj : min n (8 * din.length) ≤ 8 * min (n / 8 + 1) din.length := by omega
  rw [take_flatMap_shiftedBits _ hj, SpiPort.dataOut_take, ← take_flatMap_shiftedBits _ hj, ← hlen,
    ← length_flatMap_shiftedBits, ← List.take_eq_take_min]

end Sys2Proof.Machine

namespace Sys2Proof.Proofs

open Sys2Proof Sys2Proof.Machine Sys2Proof.Safety

/-- Settles O7: the record of each command decodes to it; bits make the whole bytes that they fill, so that what is so of bytes
is so of lines. -/
theorem recordsDecodeToTheirCommand : Obligations.RecordsDecodeToTheirCommand := by
  intro i sp record hw hr
  obtain ⟨hc, hdecodes⟩ := recordOfInstr_decodes hw hr
  refine ⟨by simpa using hdecodes [], hdecodes, fun n hn => decodeRecord_take hc sp hn, ?_⟩
  intro bits clocked
  have hlines (l : List Bool) : decodeLines sp (clocked l) = decodeRecord sp (shiftedBytes l) :=
    congrArg (fun l => decodeRecord sp (shiftedBytes l)) (sampledBits_clocked l)
  have hbits : bits = record.flatMap shiftedBits := rfl
  refine ⟨fun after => ?_, fun n hn => ?_⟩
  · rw [hlines, hbits, shiftedBytes_append]
    exact hdecodes _
  · rw [hbits, length_flatMap_shiftedBits] at hn
    rw [hlines, hbits, shiftedBytes_take]
    exact decodeRecord_take hc sp (by omega)

/-- Settles O45: data-out by bytes and by bits, and the responses of the tests 1 and 2. -/
theorem abandonedAndUnknownRecords : Obligations.AbandonedAndUnknownRecords := by
  refine ⟨fun p record wait hc => ⟨fun n hn => ?_, fun r after hr => ⟨?_, fun n hn => ?_⟩⟩, ?_, fun s sp => ⟨?_, ?_⟩⟩
  · unfold SpiPort.dataOut
    rw [firstRecord_take hc hn]
    exact congrArg (List.replicate · _) (List.length_take_of_le hn.le)
  · simp [SpiPort.dataOut_eq]
  · rw [SpiPort.dataOut_eq, List.getElem?_map, List.getElem?_range (by simpa using hn), Option.map_some]
    unfold SpiPort.outByte SpiPort.driven
    rw [firstRecord_append hc, hr]
  · intro p din wait msbFirst n
    exact p.dataOutBits_take din wait n
  · refine ⟨_, rfl, rfl, fun din wait => ?_⟩
    rw [PerSup.get_put_self]
    unfold SpiPort.dataOut
    split
    · rfl
    · rw [show SpiPort.driven _ = [] from rfl]
      simp
  · intro record hc
    refine ⟨fun hpass => ?_, fun hpass hcode => ?_⟩
    all_goals
      show execUnknownCommand sp record s = _
      unfold execUnknownCommand
      rw [if_pos hc]
    · rw [if_pos hpass, State.answered_deny]
    · rw [if_neg (by simp [hpass]), if_neg hcode, State.answered_deny]

end Sys2Proof.Proofs

/-! # Arguments that are refused (O47) -/

namespace Sys2Proof.Machine

open Sys2Proof Sys2Proof.Safety

/-! ### Codes that name a value (R173, R184, R185) -/

/-- The codes that name a value are those below `n` (R173). -/
def CodesBelow {α : Type} (arg : Byte → Option α) (n : Nat) : Prop := ∀ b, (arg b).isSome = true ↔ b.toNat < n

theorem CodesBelow.eq_none {α : Type} {arg : Byte → Option α} {n : Nat} (h : CodesBelow arg n) {b : Byte}
    (hb : n ≤ b.toNat) : arg b = none := by
  simpa using mt (h b).1 (Nat.not_lt.2 hb)

theorem CodesBelow.exists_eq {α : Type} {arg : Byte → Option α} {n : Nat} (h : CodesBelow arg n) {b : Byte}
    (hb : b.toNat < n) : ∃ a, arg b = some a := Option.isSome_iff_exists.1 ((h b).2 hb)

theorem classArg_codes : CodesBelow classArg 2 := by
  intro b
  unfold classArg
  split <;> simp_all
  omega

theorem selectorArg_codes : CodesBelow selectorArg 4 := by
  intro b
  unfold selectorArg
  split <;> simp_all
  omega

theorem placementArg_codes : CodesBelow placementArg 5 := by
  intro b
  unfold placementArg
  split <;> simp_all
  omega

theorem guardModeArg_codes : CodesBelow guardModeArg 2 := by
  intro b
  unfold guardModeArg
  split <;> simp_all
  omega

theorem tolerateArg_codes : CodesBelow tolerateArg 2 := by
  intro b
  unfold tolerateArg
  split <;> simp_all
  omega

theorem meterModeArg_codes : CodesBelow meterModeArg 2 := by
  intro b
  unfold meterModeArg
  split <;> simp_all
  omega

theorem holdLimitArg_codes : CodesBelow holdLimitArg 4 := by
  intro b
  unfold holdLimitArg
  split <;> simp_all
  omega

theorem periodArg_codes : CodesBelow periodArg 4 := by
  intro b
  unfold periodArg
  split <;> simp_all
  omega

theorem tokenArg_codes : CodesBelow tokenArg 2 := by
  intro b
  unfold tokenArg
  split <;> simp_all
  omega

theorem noticeKindArg_codes : CodesBelow noticeKindArg 10 := by
  intro b
  unfold noticeKindArg
  split <;> simp_all
  omega

theorem edgeArg_codes : CodesBelow edgeArg 4 := by
  intro b
  unfold edgeArg
  split <;> simp_all
  omega

theorem enableArg_codes : CodesBelow enableArg 2 := by
  intro b
  unfold enableArg
  split <;> simp_all
  omega

/-- The level kinds are those of codes 0 to 3 (R184). -/
theorem isLevel_of_noticeKindArg {b : Byte} {k : NoticeKind} (h : noticeKindArg b = some k) :
    k.isLevel = decide (b.toNat < 4) := by
  unfold noticeKindArg at h
  split at h
  case h_11 => cases h
  all_goals
    next hb =>
      cases h
      rw [hb]
      rfl

theorem noticeKindArg_of_code {b : Byte} {k : NoticeKind} (h : b.toNat = k.code) : noticeKindArg b = some k := by
  unfold noticeKindArg
  rw [h]
  cases k <;> rfl

/-- An edge setting stands with a level kind and an enable flag with an event kind, by their codes (R185). -/
theorem settingArg_eq_none {kind b : Byte} {k : NoticeKind} (hk : noticeKindArg kind = some k)
    (hb : kind.toNat < 4 ∧ 4 ≤ b.toNat ∨ 4 ≤ kind.toNat ∧ kind.toNat < 10 ∧ 2 ≤ b.toNat) : settingArg k b = none := by
  unfold settingArg
  rw [isLevel_of_noticeKindArg hk]
  rcases hb with ⟨hlevel, hb⟩ | ⟨hevent, -, hb⟩
  · rw [if_pos (by simpa using hlevel), edgeArg_codes.eq_none hb]
    rfl
  · rw [if_neg (by simpa using hevent), enableArg_codes.eq_none hb]
    rfl

/-- The action byte of a PORT_ADMIN row is one of those of R173. -/
theorem actionIs_eq_none {want : AdminState} {b : Byte} (h : 3 ≤ b.toNat) : actionIs want b = none := by
  unfold actionIs actionArg
  split
  case h_4 => exact if_neg nofun
  all_goals omega

/-! ### The selector of METER_SET (R150, R173) -/

theorem meterSelArg_of_input {input : Byte} (h : 24 ≤ input.toNat) : meterSelArg 4#8 input = .error 4 :=
  dif_neg (Nat.not_lt.2 h)

theorem meterSelArg_of_ge {sel : Byte} (h : 5 ≤ sel.toNat) (input : Byte) : meterSelArg sel input = .error 3 := by
  unfold meterSelArg
  split
  case h_6 => rfl
  all_goals omega

theorem exists_meterSelArg {sel : Byte} (h : sel.toNat < 4) (input : Byte) : ∃ m, meterSelArg sel input = .ok m := by
  unfold meterSelArg
  have hsel : sel.toNat = 0 ∨ sel.toNat = 1 ∨ sel.toNat = 2 ∨ sel.toNat = 3 := by omega
  rcases hsel with hsel | hsel | hsel | hsel
  all_goals
    rw [hsel]
    exact ⟨_, rfl⟩

/-! ### The pairs of NOTICES_CLEAR (R188) -/

/-- The two bytes of a pair (R188). -/
def NoticePair.bytes (x : NoticePair) : List Byte := [BitVec.ofNat 8 x.kind.code, BitVec.ofNat 8 x.index]

theorem NoticeKind.indices_le (k : NoticeKind) : k.indices ≤ 24 := by
  cases k <;> decide

theorem NoticeKind.code_toNat (k : NoticeKind) : (BitVec.ofNat 8 k.code).toNat = k.code := by
  cases k <;> rfl

/-- Pairs in order are passed over, each two positions long (R170, R188). -/
theorem clearPairs_append_error {good : List NoticePair} (hgood : ∀ y ∈ good, y.index < y.kind.indices) {pos e : Nat}
    {rest : List Byte} (h : clearPairs (pos + 2 * good.length) rest = .error e) :
    clearPairs pos (good.flatMap NoticePair.bytes ++ rest) = .error e := by
  induction good generalizing pos with
  | nil => exact h
  | cons y good ih =>
    obtain ⟨hy, hgood⟩ := List.forall_mem_cons.1 hgood
    have hindex : (BitVec.ofNat 8 y.index).toNat = y.index :=
      Nat.mod_eq_of_lt (hy.trans_le (y.kind.indices_le.trans (by decide)))
    have hrest : clearPairs (pos + 2) (good.flatMap NoticePair.bytes ++ rest) = .error e :=
      ih hgood (by rwa [List.length_cons, Nat.mul_succ, Nat.add_comm _ 2, ← Nat.add_assoc] at h)
    simp only [NoticePair.bytes, List.flatMap_cons, List.cons_append, List.nil_append, clearPairs,
      noticeKindArg_of_code y.kind.code_toNat, hindex, if_pos hy]
    exact congrArg _ hrest

theorem clearPairs_of_kind {kind : Byte} (h : 10 ≤ kind.toNat) (pos : Nat) (index : Byte) (rest : List Byte) :
    clearPairs pos (kind :: index :: rest) = .error pos := by
  rw [clearPairs, noticeKindArg_codes.eq_none h]

theorem clearPairs_of_index {kind index : Byte} {k : NoticeKind} (hk : kind.toNat = k.code) (h : k.indices ≤ index.toNat)
    (pos : Nat) (rest : List Byte) : clearPairs pos (kind :: index :: rest) = .error (pos + 1) := by
  rw [clearPairs, noticeKindArg_of_code hk]
  exact if_neg (Nat.not_lt.2 h)

/-! ### A refused argument (R170, R171, test 5) -/

theorem named_of_eq_none {α : Type} {x : Option α} (h : x = none) (pos : Nat) (f : α → Answer) : named pos x f = badArg pos := by
  rw [h, named_none]

theorem named_of_eq_some {α : Type} {x : Option α} {a : α} (h : x = some a) (pos : Nat) (f : α → Answer) :
    named pos x f = f a := by
  rw [h, named_some]

theorem meterSelector_of_error {sel input : Byte} {pos : Nat} (h : meterSelArg sel input = .error pos) (f : MeterSel → Answer) :
    meterSelector sel input f = badArg pos := by
  rw [meterSelector, h]

theorem meterSelector_of_ok {sel input : Byte} {m : MeterSel} (h : meterSelArg sel input = .ok m) (f : MeterSel → Answer) :
    meterSelector sel input f = f m := by
  rw [meterSelector, h]

/-- A set number in two bytes, the most significant 0, is one of the table's (R169). -/
theorem arg16_zero_lt (lo : Byte) : arg16 0#8 lo < 256 := by
  rw [show arg16 0#8 lo = lo.toNat from Nat.zero_add _]
  exact lo.isLt

section

variable {s : State} {sp : SupPort} {code : Byte} {pos : Nat} {a : Answer}

/-- A command whose argument at `pos` is refused answers BAD_ARGUMENT and changes nothing else. -/
theorem next_refused (ha : a = badArg pos) :
    (.next (s.answered sp code a) : Host.Outcome State Fault Refusal) =
      .next (s.respond sp code .badArgument (.badArgument (BitVec.ofNat 8 pos))) := by
  rw [ha]
  rfl

theorem next_held_refused (hs : s.master.holder = some sp) (ha : a = badArg pos) :
    (.next (s.answered sp code (s.holderOnly sp a)) : Host.Outcome State Fault Refusal) =
      .next (s.respond sp code .badArgument (.badArgument (BitVec.ofNat 8 pos))) := by
  rw [State.holderOnly_holder s sp a hs]
  exact next_refused ha

/-- NOTICES_CLEAR with a count in order answers by its pairs (R188). -/
theorem exec_noticesClear_refused {count : Byte} {pairs : List Byte} (hcount : count.toNat ≤ 8)
    (hlen : pairs.length = 2 * count.toNat) (h : clearPairs 2 pairs = .error pos) :
    exec (.noticesClear sp (count :: pairs)) s =
      .next (s.respond sp 0x0D#8 .badArgument (.badArgument (BitVec.ofNat 8 pos))) := by
  refine next_refused ((if_neg (not_not_intro hlen)).trans ((if_neg (Nat.not_lt.2 hcount)).trans ?_))
  rw [h]

end

end Sys2Proof.Machine

namespace Sys2Proof.Proofs

open Sys2Proof Sys2Proof.Machine Sys2Proof.Safety

/-- Settles O47: each argument passes or is refused by its own test, and the first that is refused gives the position. -/
theorem badArgumentsAreRefused : Obligations.BadArgumentsAreRefused := by
  intro s sp x no
  refine ⟨fun hx => ?_, fun hx => next_refused (below_of_ge hx _), fun hi lo h => next_refused (below_of_ge h _),
    fun hx lo => ?_, fun hi lo h => next_refused (below_of_ge h _), fun hx hi lo h => ?_, fun hx y => ?_, fun kind hb => ?_,
    fun hx rest hlen => ?_, ?_, fun hs => ?_⟩
  · refine ⟨?_, ?_, ?_, ?_, ?_, ?_, fun y => ?_, fun p => ?output⟩
    case output => exact next_refused ((below_portByte _ p _).trans (below_of_ge hx _))
    all_goals exact next_refused (below_of_ge hx _)
  · exact next_refused ((below_of_lt (arg16_zero_lt lo) _).trans (below_of_ge hx _))
  · exact next_refused ((below_of_lt h _).trans (named_of_eq_none (classArg_codes.eq_none hx) _ _))
  · exact next_refused (named_of_eq_none (noticeKindArg_codes.eq_none hx) _ _)
  · obtain ⟨k, hk⟩ := noticeKindArg_codes.exists_eq (b := kind) (by omega)
    exact next_refused ((named_of_eq_some hk _ _).trans (named_of_eq_none (settingArg_eq_none hk hb) _ _))
  · exact next_refused ((if_neg (not_not_intro hlen)).trans (if_pos hx))
  · intro good kind index rest pairs hx hlen hgood
    refine ⟨fun hk => ?_, fun k hk hi => ?_⟩
    · exact exec_noticesClear_refused hx hlen (clearPairs_append_error hgood (clearPairs_of_kind hk _ _ _))
    · refine (exec_noticesClear_refused hx hlen (clearPairs_append_error hgood (clearPairs_of_index hk hi _ _))).trans ?_
      rw [Nat.add_right_comm]
  · refine ⟨fun hx => ?_, fun hx => ?_, fun hx m p a b c d => ?_, fun hx m p sel a c d hsel => ?_,
      fun hi lo h => next_held_refused hs (below_of_ge h _), fun hx lo => ?_,
      fun hi lo h => ⟨next_held_refused hs (below_of_ge h _), fun a b c d e => next_held_refused hs (below_of_ge h _)⟩,
      fun hi lo h => ⟨fun hx a b c d e => ?_, fun hx sel a b c d hsel => ?_⟩,
      fun p => ⟨fun hx => ?_, fun hx a => ?_, fun hx mode hmode => ?_, fun hx => ?_⟩, fun hx => ?_, fun hx => ?_⟩
    · refine ⟨?_, ?_, ?_, ?_, fun a => ⟨?_, ?_, ?_, ?_⟩, fun a b => ⟨?_, ?_⟩, fun p a => ?input, fun ws hws => ?row,
        fun a b c => ?_, fun a b c d => ⟨?_, ?_⟩, fun m a b c d e => ?target, fun m p b c d => ?source⟩
      case input => exact next_held_refused hs ((below_portByte _ p _).trans (below_of_ge hx _))
      case row => exact next_held_refused hs ((if_pos hws).trans (below_of_ge hx _))
      case target => exact next_held_refused hs ((below_meter _ m _).trans (below_of_ge hx _))
      case source =>
        exact next_held_refused hs ((below_meter _ m _).trans
          ((below_portByte _ p _).trans (meterSelector_of_error (meterSelArg_of_input hx) _)))
      all_goals exact next_held_refused hs (below_of_ge hx _)
    · refine ⟨?_, ?_, ?_, fun a b c d e f => ?_⟩
      all_goals exact next_held_refused hs (below_of_ge hx _)
    · exact next_held_refused hs ((below_meter _ m _).trans
        ((below_portByte _ p _).trans (meterSelector_of_error (meterSelArg_of_ge hx _) _)))
    · obtain ⟨v, hv⟩ := exists_meterSelArg hsel a
      exact next_held_refused hs ((below_meter _ m _).trans ((below_portByte _ p _).trans
        ((meterSelector_of_ok hv _).trans (named_of_eq_none (meterModeArg_codes.eq_none hx) _ _))))
    · exact next_held_refused hs ((below_of_lt (arg16_zero_lt lo) _).trans (below_of_ge hx _))
    · exact next_held_refused hs ((below_of_lt h _).trans (named_of_eq_none (selectorArg_codes.eq_none hx) _ _))
    · obtain ⟨v, hv⟩ := selectorArg_codes.exists_eq hsel
      exact next_held_refused hs ((below_of_lt h _).trans
        ((named_of_eq_some hv _ _).trans (named_of_eq_none (placementArg_codes.eq_none hx) _ _)))
    · exact next_held_refused hs ((below_portByte _ p _).trans (named_of_eq_none (actionIs_eq_none hx) _ _))
    · exact next_held_refused hs ((below_portByte _ p _).trans (named_of_eq_none (guardModeArg_codes.eq_none hx) _ _))
    · obtain ⟨v, hv⟩ := guardModeArg_codes.exists_eq hmode
      exact next_held_refused hs ((below_portByte _ p _).trans
        ((named_of_eq_some hv _ _).trans (named_of_eq_none (tolerateArg_codes.eq_none hx) _ _)))
    · exact next_held_refused hs ((below_portByte _ p _).trans (named_of_eq_none (holdLimitArg_codes.eq_none hx) _ _))
    · exact next_held_refused hs (named_of_eq_none (tokenArg_codes.eq_none hx) _ _)
    · exact next_held_refused hs (named_of_eq_none (periodArg_codes.eq_none hx) _ _)

end Sys2Proof.Proofs

/-! # FABRIC_RESET (O41) -/

namespace Sys2Proof.Machine

open Sys2Proof Sys2Proof.Safety

/-! ### The order of the notices of an event (R186) -/

theorem noticeBefore_iff (a b : Notice) : noticeBefore a b = true ↔
    a.pair.kind.code < b.pair.kind.code ∨ a.pair.kind.code = b.pair.kind.code ∧ a.pair.index ≤ b.pair.index := by
  simp [noticeBefore]

theorem insertNotice_eq (n : Notice) (l : List Notice) :
    insertNotice n l = l.orderedInsert (fun a b => noticeBefore a b = true) n := by
  induction l with
  | nil => rfl
  | cons m l ih => rw [insertNotice, ih, List.orderedInsert_cons]

/-- The notices of an event are sorted by insertion. -/
theorem sortNotices_eq (l : List Notice) : sortNotices l = l.insertionSort fun a b => noticeBefore a b = true := by
  induction l with
  | nil => rfl
  | cons n l ih =>
    rw [List.insertionSort_cons, ← ih, ← insertNotice_eq]
    rfl

theorem sortNotices_perm (l : List Notice) : (sortNotices l).Perm l := by
  rw [sortNotices_eq]
  exact List.perm_insertionSort _ l

theorem sortNotices_pairwise (l : List Notice) : (sortNotices l).Pairwise fun a b => noticeBefore a b = true := by
  have total : Std.Total fun a b => noticeBefore a b = true :=
    ⟨fun a b => by simp only [noticeBefore_iff]; omega⟩
  have trans : IsTrans Notice fun a b => noticeBefore a b = true :=
    ⟨fun a b c => by simp only [noticeBefore_iff]; omega⟩
  rw [sortNotices_eq]
  exact List.pairwise_insertionSort _ l

theorem NoticeKind.code_injective {k j : NoticeKind} (h : k.code = j.code) : k = j := by
  cases k <;> cases j <;> simp [NoticeKind.code] at h ⊢

/-- Notices of which no two have the same pair are taken in the one order of R186. -/
theorem sortNotices_of_perm {l m : List Notice} (hperm : l.Perm m)
    (hpair : ∀ a ∈ m, ∀ b ∈ m, a.pair = b.pair → a = b) (hm : m.Pairwise fun a b => noticeBefore a b = true) :
    sortNotices l = m := by
  have hsorted : (sortNotices l).Perm m := (sortNotices_perm l).trans hperm
  refine hsorted.eq_of_pairwise (fun a b ha hb hab hba => hpair a (hsorted.mem_iff.1 ha) b hb ?_) (sortNotices_pairwise l) hm
  rw [noticeBefore_iff] at hab hba
  have hkind : a.pair.kind = b.pair.kind := NoticeKind.code_injective (by omega)
  have hindex : a.pair.index = b.pair.index := by omega
  cases ha : a.pair
  cases hb : b.pair
  simp_all

/-! ### The flags of several outputs evaluated (R141, R142) -/

/-- An evaluation changes the flag. -/
def Monitor.changes (m : Monitor) : Bool := m.evaluated != m.flag

/-- What an owed map does to a transmitter, whole (R130, R142). -/
theorem owed_eq (changes : Bool) (x : Port) : owed changes x = { x.tx with
    congestionUpdate := x.tx.congestionUpdate || changes && decide (x.rx.link = .up ∧ x.admin ≠ .disabled) } := by
  unfold owed
  by_cases h : x.rx.link = .up ∧ x.admin ≠ .disabled <;> cases changes <;> simp [h]

/-- The map owed twice is owed once. -/
theorem owed_owed (b b' : Bool) (x : Port) (m : Monitor) :
    owed b' { x with monitor := m, tx := owed b x } = owed (b || b') x := by
  simp only [owed_eq, Bool.or_assoc, Bool.and_or_distrib_right]

/-- Port by port, an evaluation (R141, R142). -/
theorem Event.evaluate_port (c : Event) (o q : PortId) :
    (c.evaluate o).port q = { c.port q with
      monitor := if q = o then { (c.port q).monitor with flag := (c.port q).monitor.evaluated } else (c.port q).monitor
      tx := owed (c.port o).monitor.changes (c.port q) } := by
  rw [Event.evaluate_eq_setWaiting, (c.setWaiting_eq o _).1]
  simp only [waited, State.port, Table.get_ofFn]
  by_cases hq : q = o
  · subst hq
    rfl
  · simp only [if_neg hq]
    rfl

/-- Several outputs evaluated, each once: what they become is told by their monitors before. -/
theorem Event.foldl_evaluate_eq {l : List PortId} (hl : l.Nodup) (c : Event) :
    let r := l.foldl (fun e o => e.evaluate o) c
    (∀ q, r.port q = { c.port q with
      monitor := if q ∈ l then { (c.port q).monitor with flag := (c.port q).monitor.evaluated } else (c.port q).monitor
      tx := owed (l.any fun o => (c.port o).monitor.changes) (c.port q) }) ∧
    r.raised = c.raised ++ l.flatMap (fun o => flagEdge c.toState o (c.port o).monitor.waiting) ∧ r.freed = c.freed := by
  induction l generalizing c with
  | nil => simp [owed]
  | cons o l ih =>
    obtain ⟨ho, hl⟩ := List.nodup_cons.1 hl
    obtain ⟨ihp, ihr, ihf⟩ := ih hl (c.evaluate o)
    have hmonitor {q : PortId} (hq : q ∈ l) : ((c.evaluate o).port q).monitor = (c.port q).monitor := by
      rw [Event.evaluate_port]
      exact if_neg (ne_of_mem_of_not_mem hq ho)
    obtain ⟨-, hraised, hfreed⟩ := c.setWaiting_eq o (c.port o).monitor.waiting
    rw [← Event.evaluate_eq_setWaiting] at hraised hfreed
    refine ⟨fun q => ?_, ?_, ihf.trans hfreed⟩
    · have hany : (l.any fun o' => ((c.evaluate o).port o').monitor.changes) = l.any fun o' => (c.port o').monitor.changes :=
        Bool.eq_iff_iff.2 <| by
          simp only [List.any_eq_true]
          exact exists_congr fun q => and_congr_right fun hq => by rw [hmonitor hq]
      rw [List.foldl_cons, ihp, hany, Event.evaluate_port, owed_owed, List.any_cons]
      by_cases hq : q = o
      · subst hq
        simp [ho]
      · simp [hq]
    · have hedges : (l.flatMap fun q => flagEdge (c.evaluate o).toState q ((c.evaluate o).port q).monitor.waiting) =
          l.flatMap fun q => flagEdge c.toState q (c.port q).monitor.waiting :=
        List.flatMap_congr fun q hq => by rw [hmonitor hq, flagEdge_congr (hmonitor hq)]
      rw [List.foldl_cons, ihr, hraised, hedges, List.flatMap_cons, List.append_assoc]

/-! ### FABRIC_RESET, port by port (R43, R63, R99, R121, R137, R146, R166, R191) -/

/-- The notices that fabric reset raises for a port besides CONGESTION (R43, R137, R166). -/
def Port.fabricNotices (p : PortId) (x : Port) : List Notice :=
  (if x.guard.state == .frozen then [Notice.frozen p false] else []) ++
    ((if x.tx.state == .stalled then [Notice.stall p false] else []) ++
      if x.admin == .draining then [Notice.drainDone p] else [])

/-- The event in which every port has been told of, its notices raised. -/
theorem Event.foldl_fabricNotices (x : PortId → Port) (l : List PortId) (c : Event) :
    let r := l.foldl (fun e p => e.fabricNotices p (x p)) c
    r.toState = c.toState ∧ r.raised = c.raised ++ l.flatMap (fun p => (x p).fabricNotices p) ∧ r.freed = c.freed := by
  induction l generalizing c with
  | nil => simp
  | cons p l ih =>
    obtain ⟨hstate, hraised, hfreed⟩ := ih (c.fabricNotices p (x p))
    refine ⟨hstate.trans ?_, hraised.trans ?_, hfreed.trans ?_⟩
    · simp [Event.fabricNotices]
    · rw [List.flatMap_cons, ← List.append_assoc]
      congr 1
      simp only [Event.fabricNotices, Port.fabricNotices, Event.raiseIf_raised]
      split <;> split <;> split <;> simp
    · simp [Event.fabricNotices]

/-- Some flag changes as every waiting count becomes 0 (R146). -/
def State.flagsFall (s : State) : Bool := allPorts.any fun o => flagAt s o 0 != (s.port o).monitor.flag

theorem State.flagsFall_iff (s : State) : s.flagsFall = true ↔ ∃ o, flagAt s o 0 ≠ (s.port o).monitor.flag := by
  simp [State.flagsFall, mem_allPorts]

/-- Port `q` after fabric reset, but for its credit issue: reset, its flag evaluated at a waiting count of 0. -/
def State.fabricPort (s : State) (q : PortId) : Port :=
  let x := (s.port q).fabricReset
  { x with monitor := { x.monitor with flag := flagAt s q 0 }, tx := Safety.owed s.flagsFall x }

/-- FABRIC_RESET, whole: the ports it leaves, the notices it raises (R183). -/
theorem Event.fabricReset_eq (c : Event) :
    (∀ q, c.fabricReset.port q = (c.fabricPort q).issueIfLending) ∧
    c.fabricReset.raised = c.raised ++ allPorts.flatMap (fun p => (c.port p).fabricNotices p) ++
      allPorts.flatMap (fun o => flagEdge c.toState o 0) ∧
    c.fabricReset.freed = c.freed := by
  -- the event once the blocks are reset, and once their notices are raised
  let cleared : Event := { c with ports := c.ports.map Port.fabricReset, meters := c.meters.map Meter.fabricReset }
  let told := allPorts.foldl (fun e p => e.fabricNotices p (c.port p)) cleared
  obtain ⟨hstate, hraised, hfreed⟩ := Event.foldl_fabricNotices c.port allPorts cleared
  have htold (q : PortId) : told.port q = (c.port q).fabricReset :=
    (congrArg (State.port · q) hstate).trans (Table.get_map _ _ _)
  have hchanges (o : PortId) : (told.port o).monitor.changes = (flagAt c.toState o 0 != (c.port o).monitor.flag) := by
    rw [htold]
    rfl
  have hedge (o : PortId) : flagEdge told.toState o (told.port o).monitor.waiting = flagEdge c.toState o 0 := by
    unfold flagEdge flagAt
    rw [htold]
    rfl
  obtain ⟨hport, hedges, hfreed'⟩ := Event.foldl_evaluate_eq nodup_allPorts told
  let evaluated := allPorts.foldl (fun e o => e.evaluate o) told
  have issued (e : Event) :
      (∀ q, ({ e with ports := e.ports.map Port.issueIfLending } : Event).port q = (e.port q).issueIfLending) ∧
      ({ e with ports := e.ports.map Port.issueIfLending } : Event).raised = e.raised ∧
      ({ e with ports := e.ports.map Port.issueIfLending } : Event).freed = e.freed :=
    ⟨fun q => Table.get_map _ _ _, rfl, rfl⟩
  have hissued : (∀ q, c.fabricReset.port q = (evaluated.port q).issueIfLending) ∧
      c.fabricReset.raised = evaluated.raised ∧ c.fabricReset.freed = evaluated.freed := issued _
  obtain ⟨hissued, hsame, hsame'⟩ := hissued
  refine ⟨fun q => (hissued q).trans (congrArg Port.issueIfLending ?_), hsame.trans (hedges.trans ?_),
    hsame'.trans (hfreed'.trans hfreed)⟩
  · rw [hport, if_pos (mem_allPorts q)]
    simp only [hchanges]
    rw [htold]
    rfl
  · simp only [hedge]
    exact congrArg (· ++ _) hraised

/-! ### The notices of FABRIC_RESET in their order (R186) -/

theorem flatMap_ite_singleton {α β : Type} (b : α → Bool) (f : α → β) (l : List α) :
    (l.flatMap fun a => if b a then [f a] else []) = (l.filter b).map f := by
  induction l with
  | nil => rfl
  | cons a l ih => cases h : b a <;> simp [ih, h]

/-- The CONGESTION edges of fabric reset are those of the flags that change (R142, R146). -/
theorem State.flagEdges_eq (s : State) : (allPorts.flatMap fun o => flagEdge s o 0) =
    (allPorts.filter fun o => flagAt s o 0 != (s.port o).monitor.flag).map fun o => .congestion o (flagAt s o 0) := by
  rw [← flatMap_ite_singleton]
  refine List.flatMap_congr fun o _ => ?_
  unfold flagEdge
  by_cases h : flagAt s o 0 = (s.port o).monitor.flag <;> simp [h]

/-- The notices of FABRIC_RESET, kind by kind (R42, R142, R162, R186). -/
def State.fabricTold (s : State) : List Notice :=
  (allPorts.flatMap fun o => flagEdge s o 0) ++
    ((allPorts.filter fun p => (s.port p).guard.state == .frozen).map (Notice.frozen · false) ++
      ((allPorts.filter fun p => (s.port p).tx.state == .stalled).map (Notice.stall · false) ++
        (allPorts.filter fun p => (s.port p).admin == .draining).map Notice.drainDone))

theorem State.fabricTold_perm (s : State) :
    (allPorts.flatMap (fun p => (s.port p).fabricNotices p) ++ allPorts.flatMap (fun o => flagEdge s o 0)).Perm
      s.fabricTold := by
  refine List.perm_append_comm.trans (.append_left _ ?_)
  simp only [← flatMap_ite_singleton]
  refine ((List.flatMap_append_perm allPorts _ _).symm).trans (.append_left _ ?_)
  exact (List.flatMap_append_perm allPorts _ _).symm

/-- A notice of FABRIC_RESET is told by its kind and its port (R42, R142, R162). -/
theorem State.mem_fabricTold {s : State} {n : Notice} (h : n ∈ s.fabricTold) :
    ∃ p, n = .congestion p (flagAt s p 0) ∨ n = .frozen p false ∨ n = .stall p false ∨ n = .drainDone p := by
  unfold State.fabricTold at h
  rw [State.flagEdges_eq] at h
  simp only [List.mem_append, List.mem_map] at h
  rcases h with ⟨p, -, rfl⟩ | ⟨p, -, rfl⟩ | ⟨p, -, rfl⟩ | ⟨p, -, rfl⟩ <;> exact ⟨p, by simp⟩

theorem State.fabricTold_pairwise (s : State) : s.fabricTold.Pairwise fun a b => noticeBefore a b = true := by
  have ports (b : PortId → Bool) {f : PortId → Notice} {k : NoticeKind} (hf : ∀ p, (f p).pair = ⟨k, p.val⟩) :
      ((allPorts.filter b).map f).Pairwise fun a b => noticeBefore a b = true := by
    refine List.pairwise_map.2 (((by decide : allPorts.Pairwise (· < ·)).filter b).imp fun {p q} hlt => ?_)
    simp [noticeBefore, hf, hlt.le]
  unfold State.fabricTold
  rw [State.flagEdges_eq]
  refine List.pairwise_append.2 ⟨ports _ fun _ => rfl, List.pairwise_append.2 ⟨ports _ fun _ => rfl, List.pairwise_append.2
    ⟨ports _ fun _ => rfl, ports _ fun _ => rfl, ?_⟩, ?_⟩, ?_⟩
  all_goals simp only [List.mem_append, List.mem_map]
  · rintro _ ⟨p, -, rfl⟩ _ ⟨q, -, rfl⟩
    rfl
  · rintro _ ⟨p, -, rfl⟩ _ (⟨q, -, rfl⟩ | ⟨q, -, rfl⟩) <;> rfl
  · rintro _ ⟨p, -, rfl⟩ _ (⟨q, -, rfl⟩ | ⟨q, -, rfl⟩ | ⟨q, -, rfl⟩) <;> rfl

/-- The notices of FABRIC_RESET are taken kind by kind. -/
theorem State.sortNotices_fabric (s : State) :
    sortNotices (allPorts.flatMap (fun p => (s.port p).fabricNotices p) ++ allPorts.flatMap (fun o => flagEdge s o 0)) =
      s.fabricTold := by
  refine sortNotices_of_perm s.fabricTold_perm (fun a ha b hb hab => ?_) s.fabricTold_pairwise
  obtain ⟨p, hp⟩ := State.mem_fabricTold ha
  obtain ⟨q, hq⟩ := State.mem_fabricTold hb
  rcases hp with rfl | rfl | rfl | rfl <;> rcases hq with rfl | rfl | rfl | rfl <;>
    simp [Notice.pair, Fin.val_inj] at hab ⊢ <;> subst hab <;> simp

/-! ### A port after FABRIC_RESET -/

/-- A port lends after fabric reset as before: ENABLED stays, and DRAINING becomes DISABLED (R166). -/
theorem State.fabricPort_lends (s : State) (q : PortId) : (s.fabricPort q).lends = (s.port q).lends := by
  show ((s.port q).rx.link == .up && (if (s.port q).admin = .draining then AdminState.disabled else (s.port q).admin) == .enabled) =
    ((s.port q).rx.link == .up && (s.port q).admin == .enabled)
  cases (s.port q).admin <;> rfl

/-- The free space of an emptied input is the whole capacity of each key (R55, R63). -/
theorem State.fabricPort_freeSpace (s : State) (q : PortId) : (s.fabricPort q).freeSpace = .ofFn capacity := by
  refine congrArg Table.ofFn (funext fun k => ?_)
  rw [show (s.fabricPort q).occupancy k = 0 from (s.port q).fabricReset_occupancy k, Nat.sub_zero]

theorem capacity_pos (k : Key) : 0 < capacity k := by
  unfold capacity
  split
  · decide
  · split <;> decide

/-- A port that lends has its account rebuilt against the emptied store (R55, R63). -/
theorem State.fabricPort_issue (s : State) (q : PortId) : (s.fabricPort q).issue.account =
    { outstanding := .fill 0, pending := .ofFn capacity, returnList := allKeys, resyncPending := true
      inFlight := (s.port q).account.inFlight.map fun w => { w with void := true } } := by
  have hspace := s.fabricPort_freeSpace q
  have hkeys : (allKeys.filter fun k => (s.fabricPort q).freeSpace.get k != 0) = allKeys := by
    refine List.filter_eq_self.2 fun k _ => ?_
    rw [hspace, Table.get_ofFn]
    exact bne_iff_ne.2 (capacity_pos k).ne'
  have hvoid : (s.fabricPort q).account.voided = (s.port q).account.inFlight.map fun w => { w with void := true } := by
    show ((s.port q).account.inFlight.map _).map _ = _
    rw [Option.map_map]
    rfl
  unfold Port.issue
  rw [hkeys, hspace, hvoid]

/-- The transmitter of a port after fabric reset: the cell on its link is closed, a change of any flag is owed to a port that
is UP and ENABLED, and the rest is as it was (R130, R137, R142). -/
theorem State.fabricPort_tx (s : State) (q : PortId) : (s.fabricPort q).tx =
    let x := s.port q
    let t := if x.tx.onLink.any isCell then aborted x.tx else x.tx
    { t with
      state := if x.rx.link = .up then .idle else .down, service := none, timer := none
      congestionUpdate := x.tx.congestionUpdate ||
        decide (x.rx.link = .up ∧ x.admin = .enabled ∧ ∃ o, flagAt s o 0 ≠ (s.port o).monitor.flag) } := by
  have hadmin : (s.fabricPort q).admin ≠ .disabled ↔ (s.port q).admin = .enabled := by
    show (if (s.port q).admin = .draining then AdminState.disabled else (s.port q).admin) ≠ .disabled ↔ _
    cases (s.port q).admin <;> simp
  have howed : (s.flagsFall && decide ((s.port q).rx.link = .up ∧ (s.fabricPort q).admin ≠ .disabled)) =
      decide ((s.port q).rx.link = .up ∧ (s.port q).admin = .enabled ∧ ∃ o, flagAt s o 0 ≠ (s.port o).monitor.flag) := by
    rw [Bool.eq_iff_iff, Bool.and_eq_true, State.flagsFall_iff, decide_eq_true_iff, decide_eq_true_iff, hadmin,
      and_comm, and_assoc]
  have htx : (s.fabricPort q).tx =
      let t := (s.port q).tx.abortCell
      { t with
        state := if (s.port q).isUp then .idle else .down, service := none, timer := none
        congestionUpdate := t.congestionUpdate ||
          (s.flagsFall && decide ((s.port q).rx.link = .up ∧ (s.fabricPort q).admin ≠ .disabled)) } := owed_eq _ _
  have hclosed : (s.port q).tx.abortCell.congestionUpdate = (s.port q).tx.congestionUpdate := by
    rw [Transmitter.abortCell_eq]
    split <;> rfl
  rw [htx, howed]
  dsimp only
  rw [hclosed, Transmitter.abortCell_eq]
  simp only [Port.isUp, beq_iff_eq]

/-- What the credit issue of fabric reset does to a port: one that is UP and ENABLED starts a new epoch with its whole capacity
pending, and any other is withdrawn (R55, R59, R63). -/
theorem State.fabricPort_issued (s : State) (q : PortId) :
    let x := s.port q
    let lends : Prop := x.rx.link = .up ∧ x.admin = .enabled
    ∃ epoch account word, (s.fabricPort q).issueIfLending =
        { s.fabricPort q with
          epoch := epoch, account := account, tx := { (s.fabricPort q).tx with resyncWord := word } } ∧
      (lends → epoch = x.epoch + 1#3 ∧ word = some (x.epoch + 1#3) ∧
        account = { outstanding := .fill 0, pending := .ofFn capacity, returnList := allKeys, resyncPending := true
                    inFlight := x.account.inFlight.map fun w => { w with void := true } }) ∧
      (¬ lends → epoch = x.epoch ∧ word = x.tx.resyncWord ∧ account = withdrawn x.account) := by
  intro x lends
  have hlends : (s.fabricPort q).lends = true ↔ lends := by
    rw [State.fabricPort_lends]
    exact Port.lends_iff _
  have hword : (s.fabricPort q).tx.resyncWord = x.tx.resyncWord := by
    rw [State.fabricPort_tx]
    dsimp only
    split <;> rfl
  unfold Port.issueIfLending
  by_cases h : lends
  · rw [if_pos (hlends.2 h)]
    exact ⟨_, _, _, rfl, fun _ => ⟨rfl, rfl, s.fabricPort_issue q⟩, fun hn => absurd h hn⟩
  · rw [if_neg fun hl => h (hlends.1 hl)]
    exact ⟨_, _, _, rfl, fun hl => absurd hl h, fun _ => ⟨rfl, hword, rfl⟩⟩

end Sys2Proof.Machine

namespace Sys2Proof.Proofs

open Sys2Proof Sys2Proof.Machine Sys2Proof.Safety

/-- Settles O41: the ports as the event leaves them, the blocks beside the ports, and the notices in their order. -/
theorem fabricResetClearsTraffic : Obligations.FabricResetClearsTraffic := by
  intro s sp hs
  obtain ⟨hports, hraised, hfreed⟩ := (Event.start s).fabricReset_eq
  obtain ⟨hgroups, hmeters, hmaster, hunits, hspi, hpending⟩ := (Event.start s).fabricReset_shared
  have hlends (p : PortId) : ((Event.start s).fabricReset.port p).lends =
      ((s.port p).rx.link == .up && (s.port p).admin == .enabled) := by
    have hissue (x : Port) : x.issueIfLending.lends = x.lends := by
      unfold Port.issueIfLending
      split <;> rfl
    rw [hports, hissue]
    exact s.fabricPort_lends p
  have hnotices : sortNotices (Event.start s).fabricReset.raised = s.fabricTold :=
    (congrArg sortNotices hraised).trans s.sortNotices_fabric
  have hfinish (p : PortId) : (Event.start s).fabricReset.finish.port p = (s.fabricPort p).issueIfLending := by
    rw [Event.finish_of_freed_nil _ hfreed, notify_port]
    exact hports p
  have hexec : exec (.fabricReset sp []) s = .next ((Event.start s).fabricReset.finish.respond sp 0x61#8 .ok (.fabricReset
      (allPorts.filter fun p => (s.port p).rx.link == .up && (s.port p).admin == .enabled)
      (allPorts.filter fun p => (s.port p).admin == .draining))) := by
    show Host.Outcome.next (s.answered sp 0x61#8 (s.holderOnly sp _)) = _
    rw [State.holderOnly_holder s sp _ hs]
    simp only [State.answered_done, hlends]
  refine ⟨_, hexec, fun p => ?_, fun m => ?_, ?_, ?_, ?_, ?_, ?_⟩
  · intro x y lends
    obtain ⟨epoch, account, word, hissued, hon, hoff⟩ := s.fabricPort_issued p
    have hy : y = { s.fabricPort p with
        epoch := epoch, account := account, tx := { (s.fabricPort p).tx with resyncWord := word } } :=
      (State.respond_port _ _ _ _ _ _).trans ((hfinish p).trans hissued)
    clear_value y
    subst hy
    refine ⟨rfl, rfl, rfl, Port.queue_of_fill rfl, rfl, rfl, rfl, rfl, ?_, ?_, ?_, ?_, fun hc => ?_, fun hc => ?_, ?_, hon,
      hoff⟩
    all_goals
      dsimp only
      rw [s.fabricPort_tx p]
    · dsimp only
      split <;> rfl
    · have hidle : ¬ (s.port p).tx.onLink.any isCell = true := ne_true_of_eq_false hc
      simp only [if_neg hidle]
      exact ⟨rfl, rfl, rfl, rfl⟩
    · have hcell : (s.port p).tx.onLink.any isCell = true := hc
      simp only [if_pos hcell]
      exact ⟨rfl, rfl, rfl, rfl⟩
  · rw [State.respond_meters, Event.finish_meters, hmeters]
    exact Table.get_map _ _ _
  · rw [State.respond_groups, Event.finish_groups, hgroups]
    rfl
  · rw [State.respond_master, Event.finish_master, hmaster]
    rfl
  · rw [State.respond_pending, Event.finish_pending, hpending]
    rfl
  · rw [State.respond_units, Event.finish_units_of hunits, hnotices]
    simp only [State.fabricTold, List.append_assoc]
    rfl
  · unfold State.respond
    dsimp only
    rw [Event.finish_spi, Event.finish_master, hspi, hmaster]
    rfl

end Sys2Proof.Proofs

/-! # Notices that match, and the order in which they latch (O49) -/

namespace Sys2Proof.Machine

open Sys2Proof Sys2Proof.Safety

theorem EdgeSetting.takes_iff (e : EdgeSetting) (rising : Bool) : e.takes rising = true ↔
    e = .both ∨ e = .rise ∧ rising = true ∨ e = .fall ∧ rising = false := by
  cases e <;> simp [EdgeSetting.takes]

section

variable {u : NoticeUnit} {n : Notice}

theorem NoticeUnit.latch_of_not_takes (h : u.takes n = false) : u.latch n = u :=
  if_neg (ne_true_of_eq_false h)

theorem NoticeUnit.latch_of_takes (h : u.takes n = true) : u.latch n = { u with
    latched := if n.pair ∈ u.latched then u.latched else u.latched ++ [n.pair]
    evictSet := (u.latch n).evictSet
    alarm := true } := by
  unfold NoticeUnit.latch
  rw [if_pos h]

/-- An EVICT that matches writes its set number (R77, R186). -/
theorem NoticeUnit.latch_evictSet {set : Fin 256} (h : u.takes (.evict set) = true) :
    (u.latch (.evict set)).evictSet = set.val := by
  unfold NoticeUnit.latch
  rw [if_pos h]

theorem NoticeUnit.latch_evictSet_of_ne (h : ∀ set, n ≠ .evict set) : (u.latch n).evictSet = u.evictSet := by
  unfold NoticeUnit.latch
  split
  · cases n with
    | evict set => exact absurd rfl (h set)
    | _ => rfl
  · rfl

end

end Sys2Proof.Machine

namespace Sys2Proof.Proofs

open Sys2Proof Sys2Proof.Machine Sys2Proof.Safety

/-- Settles O49: how a unit takes one notice, which notices match, and the order from the sorting of `sortNotices`. -/
theorem noticesLatchInOrder : Obligations.NoticesLatchInOrder := by
  refine ⟨fun u n => ⟨NoticeUnit.latch_of_not_takes, fun h => ⟨NoticeUnit.latch_of_takes h, ?_,
    NoticeUnit.latch_evictSet_of_ne⟩⟩, fun u p set m => ?_, rfl, fun l => ⟨sortNotices_perm l, ?_⟩⟩
  · rintro set rfl
    exact NoticeUnit.latch_evictSet h
  · exact ⟨fun rising => ⟨⟨u.link.takes_iff rising, rfl⟩, ⟨u.congestion.takes_iff rising, rfl⟩,
      ⟨u.frozen.takes_iff rising, rfl⟩, ⟨u.stall.takes_iff rising, rfl⟩⟩,
      ⟨rfl, rfl⟩, ⟨rfl, rfl⟩, ⟨rfl, rfl⟩, ⟨rfl, rfl⟩, ⟨rfl, rfl⟩, ⟨rfl, rfl⟩⟩
  · exact (sortNotices_pairwise l).imp fun {a b} h => (noticeBefore_iff a b).1 h

end Sys2Proof.Proofs

/-! # The notice commands (O50) -/

namespace Sys2Proof.Machine

open Sys2Proof Sys2Proof.Safety

/-! ### The level of a notice (R184) -/

section

variable (s : State) (p : PortId)

theorem State.noticeLevel_link : s.noticeLevel .link p.val = ((s.port p).rx.link == .up) := dif_pos p.isLt

theorem State.noticeLevel_congestion : s.noticeLevel .congestion p.val = (s.port p).monitor.flag := dif_pos p.isLt

theorem State.noticeLevel_frozen : s.noticeLevel .frozen p.val = ((s.port p).guard.state == .frozen) := dif_pos p.isLt

theorem State.noticeLevel_stall : s.noticeLevel .stall p.val = ((s.port p).tx.state == .stalled) := dif_pos p.isLt

end

theorem State.noticeLevel_event (s : State) {k : NoticeKind} (h : k.isLevel = false) (index : Nat) :
    s.noticeLevel k index = false := by
  unfold State.noticeLevel
  split
  · cases k
    case link | congestion | frozen | stall => cases h
    all_goals rfl
  · rfl

/-! ### The arguments of NOTICES_CLEAR and NOTICE_CONFIG (R185, R188) -/

/-- A pair within its kind's range is read back from its two bytes (R188). -/
theorem clearPairs_bytes_append {y : NoticePair} (hy : y.index < y.kind.indices) (pos : Nat) (rest : List Byte) :
    clearPairs pos (y.bytes ++ rest) = (clearPairs (pos + 2) rest).map (y :: ·) := by
  have hindex : (BitVec.ofNat 8 y.index).toNat = y.index :=
    Nat.mod_eq_of_lt (hy.trans_le (y.kind.indices_le.trans (by decide)))
  simp only [NoticePair.bytes, List.cons_append, List.nil_append, clearPairs, noticeKindArg_of_code y.kind.code_toNat,
    hindex, if_pos hy]

theorem clearPairs_bytes {pairs : List NoticePair} (h : ∀ y ∈ pairs, y.index < y.kind.indices) (pos : Nat) :
    clearPairs pos (pairs.flatMap NoticePair.bytes) = .ok pairs := by
  induction pairs generalizing pos with
  | nil => rfl
  | cons y pairs ih =>
    obtain ⟨hy, hpairs⟩ := List.forall_mem_cons.1 h
    rw [List.flatMap_cons, clearPairs_bytes_append hy, ih hpairs]
    rfl

theorem length_flatMap_bytes (pairs : List NoticePair) : (pairs.flatMap NoticePair.bytes).length = 2 * pairs.length := by
  simp [NoticePair.bytes, Nat.mul_comm]

theorem settingArg_of_level {k : NoticeKind} {b : Byte} {e : EdgeSetting} (hk : k.isLevel = true) (hb : edgeArg b = some e) :
    settingArg k b = some (.edge e) := by
  rw [settingArg, if_pos hk, hb]
  rfl

theorem settingArg_of_event {k : NoticeKind} {b : Byte} {on : Bool} (hk : k.isLevel = false) (hb : enableArg b = some on) :
    settingArg k b = some (.enable on) := by
  rw [settingArg, if_neg (ne_true_of_eq_false hk), hb]
  rfl

theorem edgeArg_of_mem {b : Byte} {e : EdgeSetting}
    (h : (b, e) ∈ [(0#8, EdgeSetting.none), (1#8, .rise), (2#8, .fall), (3#8, .both)]) : edgeArg b = some e := by
  simp only [List.mem_cons, Prod.mk.injEq, List.not_mem_nil, or_false] at h
  obtain ⟨rfl, rfl⟩ | ⟨rfl, rfl⟩ | ⟨rfl, rfl⟩ | ⟨rfl, rfl⟩ := h
  all_goals rfl

theorem enableArg_of_mem {b : Byte} {on : Bool} (h : (b, on) ∈ [(0#8, false), (1#8, true)]) : enableArg b = some on := by
  simp only [List.mem_cons, Prod.mk.injEq, List.not_mem_nil, or_false] at h
  obtain ⟨rfl, rfl⟩ | ⟨rfl, rfl⟩ := h
  all_goals rfl

/-! ### The unit of the requesting port replaced, and nothing else (R185, R188) -/

theorem Event.finish_setUnit (s : State) (sp : SupPort) (u : NoticeUnit) :
    ((Event.start s).setUnit sp u).finish = { s with units := s.units.put sp u } :=
  Event.finish_of_quiet _ rfl rfl

section

variable {s : State} {sp : SupPort}

/-- NOTICES_CLEAR with its count and its pairs in order (R188). -/
theorem exec_noticesClear {pairs : List NoticePair} (hlen : pairs.length ≤ 8)
    (hpairs : ∀ y ∈ pairs, y.index < y.kind.indices) :
    let u := s.units.get sp
    let v := u.clear pairs
    exec (.noticesClear sp (BitVec.ofNat 8 pairs.length :: pairs.flatMap NoticePair.bytes)) s =
      .next (({ s with units := s.units.put sp v } : State).respond sp 0x0D#8 .ok
        (.cleared (u.latched.length - v.latched.length) v.latched.length)) := by
  intro u v
  have hcount : (BitVec.ofNat 8 pairs.length).toNat = pairs.length := Nat.mod_eq_of_lt (by omega)
  rw [← Event.finish_setUnit, ← State.answered_done]
  refine congrArg (fun a => Host.Outcome.next (s.answered sp 0x0D#8 a)) ?_
  dsimp only
  rw [hcount, if_neg (not_not_intro (length_flatMap_bytes pairs)), if_neg (Nat.not_lt.2 hlen), clearPairs_bytes hpairs]

/-- NOTICE_CONFIG with a kind and a setting of that kind (R185). -/
theorem exec_noticeConfig {kind setting : Byte} {k : NoticeKind} {x : Setting} (hk : noticeKindArg kind = some k)
    (hx : settingArg k setting = some x) :
    exec (.noticeConfig sp [kind, setting]) s =
      .next (({ s with units := s.units.put sp ((s.units.get sp).configure k x) } : State).respond sp 0x0E#8 .ok
        (.noticeConfig k x (s.units.get sp).latched.length)) := by
  rw [← Event.finish_setUnit, ← State.answered_done]
  exact congrArg (fun a => Host.Outcome.next (s.answered sp 0x0E#8 a))
    ((named_of_eq_some hk _ _).trans (named_of_eq_some hx _ _))

end

end Sys2Proof.Machine

namespace Sys2Proof.Proofs

open Sys2Proof Sys2Proof.Machine Sys2Proof.Safety

/-- Settles O50: the levels, and each command by what its arguments name. -/
theorem noticeCommandsActOnTheOwnUnit : Obligations.NoticeCommandsActOnTheOwnUnit := by
  intro s sp u
  refine ⟨fun p => ?_, fun k index hk => s.noticeLevel_event ?_ index, next_reads _ _ _ _,
    fun pairs => exec_noticesClear, fun code e he => ?_, fun code on hon => ?_⟩
  · rw [s.noticeLevel_link, s.noticeLevel_congestion, s.noticeLevel_frozen, s.noticeLevel_stall]
    exact ⟨beq_iff_eq, .rfl, beq_iff_eq, beq_iff_eq⟩
  · exact (by decide : ∀ k ∈ [NoticeKind.fault, .drainDone, .evict, .alert, .change, .capture], k.isLevel = false) k hk
  · have edge {kind : Byte} (k : NoticeKind) (hkind : noticeKindArg kind = some k) (hk : k.isLevel = true) :=
      exec_noticeConfig (s := s) (sp := sp) hkind (settingArg_of_level hk (edgeArg_of_mem he))
    exact ⟨edge .link rfl rfl, edge .congestion rfl rfl, edge .frozen rfl rfl, edge .stall rfl rfl⟩
  · have enable {kind : Byte} (k : NoticeKind) (hkind : noticeKindArg kind = some k) (hk : k.isLevel = false) :=
      exec_noticeConfig (s := s) (sp := sp) hkind (settingArg_of_event hk (enableArg_of_mem hon))
    exact ⟨enable .fault rfl rfl, enable .drainDone rfl rfl, enable .evict rfl rfl, enable .alert rfl rfl,
      enable .change rfl rfl, enable .capture rfl rfl⟩

end Sys2Proof.Proofs

/-! # Steps, and the commands that wait (O1, O2) -/

namespace Sys2Proof.Machine

open Sys2Proof Sys2Proof.Safety

/-! ### Events that leave the queue of waiting commands alone -/

theorem Event.SharedSame.pending {c d : Event} (h : c.SharedSame d) : d.pending = c.pending := by
  obtain ⟨-, -, -, -, -, hpending⟩ := h
  exact hpending

section

variable (c : Event) (p : PortId)

@[simp] theorem Event.modArbiter_pending (f : Arbiter → Arbiter) : (c.modArbiter p f).pending = c.pending := rfl
@[simp] theorem Event.count_pending (k : Counter) : (c.count p k).pending = c.pending := rfl
@[simp] theorem Event.free_pending (k : Key) (n : Nat) : (c.free p k n).pending = c.pending := (c.free_shared p k n).pending
@[simp] theorem Event.evaluate_pending : (c.evaluate p).pending = c.pending := (c.evaluate_shared p).pending
@[simp] theorem Event.setWaiting_pending (n : Nat) : (c.setWaiting p n).pending = c.pending :=
  (c.setWaiting_shared p n).pending
@[simp] theorem Event.pickCheck_pending : (c.pickCheck p).pending = c.pending := (c.pickCheck_shared p).pending
@[simp] theorem Event.drainChecks_pending (n : Nat) (l : List PortId) : (c.drainChecks n l).pending = c.pending :=
  (c.drainChecks_shared n l).pending
@[simp] theorem Event.outputUnavailable_pending : (c.outputUnavailable p).pending = c.pending :=
  (c.outputUnavailable_shared p).pending
@[simp] theorem Event.guardFault_pending (k : FaultKind) : (c.guardFault p k).pending = c.pending :=
  (c.guardFault_shared p k).pending
@[simp] theorem Event.clearGuard_pending : (c.clearGuard p).pending = c.pending := (c.clearGuard_shared p).pending
@[simp] theorem Event.enterDown_pending : (c.enterDown p).pending = c.pending := (c.enterDown_shared p).pending
@[simp] theorem Event.enterUp_pending (good : Nat) : (c.enterUp p good).pending = c.pending :=
  (c.enterUp_shared p good).pending
@[simp] theorem Event.markHead_pending : (c.markHead p).pending = c.pending := (c.markHead_shared p).pending
@[simp] theorem Event.enable_pending : (c.enable p).1.pending = c.pending := (c.enable_shared p).pending
@[simp] theorem Event.drain_pending : (c.drain p).pending = c.pending := (c.drain_shared p).pending
@[simp] theorem Event.disable_pending : (c.disable p).pending = c.pending := (c.disable_shared p).pending
@[simp] theorem Event.resetPort_pending : (c.resetPort p).pending = c.pending := (c.resetPort_leavesShared p).pending
@[simp] theorem Event.fabricReset_pending : c.fabricReset.pending = c.pending := c.fabricReset_shared.pending
@[simp] theorem Event.discardCharged_pending (key : Key) (k : Counter) :
    (c.discardCharged p key k).pending = c.pending := (c.discardCharged_shared p key k).pending
@[simp] theorem Event.acceptCell_pending (d : PortId) (h : Header) (payload : List Byte) :
    (c.acceptCell p d h payload).pending = c.pending := (c.acceptCell_shared p d h payload).pending
@[simp] theorem Event.acceptCopies_pending (h : Header) (payload : List Byte) (r : OutSet) :
    (c.acceptCopies p h payload r).pending = c.pending := (c.acceptCopies_shared p h payload r).pending
@[simp] theorem Event.meterDeparture_pending (d : Departed) : (c.meterDeparture p d).pending = c.pending := by
  rw [(c.meterDeparture_raises p d).1]

@[simp] theorem Event.depart_pending (src : Source) : (c.depart p src).pending = c.pending := by
  unfold Event.depart Event.complete
  dsimp only
  split <;> simp

@[simp] theorem Event.place_pending (h : Header) (payload : List Byte) : (c.place p h payload).pending = c.pending := by
  unfold Event.place
  split
  · dsimp only
    split
    · simp
    · split <;> simp
  · split
    · dsimp only
      split <;> simp
    · rfl

@[simp] theorem Event.classify_pending (data : List Byte) (closed : CellEnd) :
    (c.classify p data closed).pending = c.pending := by
  unfold Event.classify
  dsimp only
  repeat' split
  all_goals simp [Event.discard, Event.charge]

end

/-! ### Every command ends in a next state with the queue kept -/

/-- The outcome is a next state, in which the commands that wait are those of `s`. -/
def State.Completes (s : State) (r : Host.Outcome State Fault Refusal) : Prop :=
  ∃ t, r = .next t ∧ t.pending = s.pending

section

variable {s : State}

theorem State.Completes.idle : s.Completes (.next s) := ⟨s, rfl, rfl⟩

theorem State.Completes.finish {c : Event} (h : c.pending = s.pending) : s.Completes (.next c.finish) :=
  ⟨c.finish, rfl, c.finish_pending.trans h⟩

/-- A command that is answered completes where the event of its answer, if it has one, leaves the queue. -/
theorem State.Completes.answered {a : Answer} {sp : SupPort} {code : Byte}
    (ha : a.Leads fun c => c.pending = s.pending) : s.Completes (.next (s.answered sp code a)) := by
  cases a with
  | done c d => exact ⟨_, rfl, c.finish_pending.trans ha⟩
  | deny st d => exact ⟨_, rfl, rfl⟩

theorem State.Completes.held {a : Answer} {sp : SupPort} {code : Byte} (ha : a.Leads fun c => c.pending = s.pending) :
    s.Completes (.next (s.answered sp code (s.holderOnly sp a))) :=
  .answered ((Answer.leads_holderOnly _ _ _ _).2 fun _ => ha)

variable (s)

theorem execMarkerReceived_completes (p : PortId) (word : ControlWord) : s.Completes (execMarkerReceived p word s) := by
  unfold execMarkerReceived
  dsimp only
  split
  · split
    · exact .idle
    · exact .finish (by simp)
    · split
      · split <;> exact .finish (by simp)
      · exact .finish (by simp)
    · split
      · exact .finish (by simp)
      · split <;> exact .finish (by simp)
  · exact .idle

theorem execHold_completes (p : PortId) : s.Completes (execHold p s) := by
  unfold execHold
  split
  · split
    · exact .finish (by simp)
    · exact .finish (by simp)
    all_goals exact .idle
  · exact .idle

theorem execRelease_completes (p : PortId) : s.Completes (execRelease p s) := by
  unfold execRelease
  split
  · split
    · split <;> exact .finish (by simp)
    · exact .finish (by simp)
    all_goals exact .idle
  · exact .idle

/-- What the part takes that is no command of a supervisor: the reset, and the events of its links, its timers and its
management ports. -/
def isEvent : Instr → Bool
  | .powerUpReset | .lockAcquired _ | .lockLost _ _ | .markerReceived _ _ | .hold _ | .release _ | .idleReceived _
  | .controlErrorWord _ | .wordDropped _ | .abortedCell _ | .cellReceptionComplete _ _ _ | .unitBoundary _
  | .departure _ | .creditWordCompletion _ | .resyncCompletion _ | .congestionWordCompletion _ | .holdTimerExpiry _
  | .mastershipTimerExpiry | .transactionAbandoned _ | .unknownCommand _ _ => true
  | _ => false

/-- An event that does not apply idles; any other ends what it has changed, none of it in the queue. -/
theorem exec_completes_of_event (i : Instr) (hi : isEvent i = true) : s.Completes (exec i s) := by
  cases i
  case idleReceived | wordDropped | abortedCell => exact .idle
  case powerUpReset | transactionAbandoned => exact ⟨_, rfl, rfl⟩
  case markerReceived p word => exact execMarkerReceived_completes s p word
  case hold p => exact execHold_completes s p
  case release p => exact execRelease_completes s p
  case lockAcquired | controlErrorWord | cellReceptionComplete | unitBoundary | departure | creditWordCompletion |
      resyncCompletion | congestionWordCompletion | holdTimerExpiry =>
    dsimp only [exec, execLockAcquired, execControlErrorWord, execCellReceptionComplete, execUnitBoundary, execDeparture,
      execCreditWordCompletion, execResyncCompletion, execCongestionWordCompletion, execHoldTimerExpiry]
    split
    · exact .finish (by simp)
    · exact .idle
  case lockLost p cut =>
    show s.Completes (execLockLost p cut s)
    unfold execLockLost
    split
    · dsimp only
      split <;> exact .finish (by simp)
    · exact .idle
  case mastershipTimerExpiry =>
    show s.Completes (execMastershipTimerExpiry s)
    unfold execMastershipTimerExpiry
    split
    · split <;> exact .finish (by simp)
    · exact .idle
  case unknownCommand sp record =>
    show s.Completes (execUnknownCommand sp record s)
    unfold execUnknownCommand
    split
    · split
      · exact .answered trivial
      · split
        · exact .idle
        · exact .answered trivial
    · exact .idle
  all_goals cases hi

/-- A supervisor command is answered, and the event of its answer leaves the queue. -/
theorem exec_completes_of_command (i : Instr) (hi : isEvent i = false) : s.Completes (exec i s) := by
  cases i
  case status | portRead | queueRead | replicationRead | creditRead | groupRead | groupProbe | arbiterRead |
      monitorRead | meterRead | countersRead | noticesRead | noticeConfig =>
    refine .answered ?_
    split <;> simp
  case noticesClear =>
    refine .answered ?_
    repeat' split
    all_goals simp
  case claim =>
    refine .answered ?_
    split
    · split
      · simp
      · split <;> simp
    · trivial
  case relinquish | keepalive | timerPeriod | portAdminEnable | portAdminDrain | portAdminDisable | portReset |
      linkParams | guardSet | guardResume | groupRemove | groupRemoveId | groupFlush | weightStage | expressSet |
      holdLimit | thresholds | meterStart | meterStop | meterCapture | countersClear | fabricReset =>
    refine .held ?_
    split <;> simp
  case portResync =>
    refine .held ?_
    split
    · rw [Answer.leads_below]
      intro hp
      split <;> simp
    · trivial
  case weightStageRow =>
    refine .held ?_
    split
    · split <;> simp
    · trivial
  case groupInstall =>
    refine .held ?_
    split
    · simp only [Answer.leads_below, Answer.leads_named]
      intros
      split <;> simp
    · trivial
  case meterSet =>
    refine .held ?_
    split
    · simp only [Answer.leads_below, Answer.leads_meterSelector, Answer.leads_named]
      intros
      split <;> simp
    · trivial
  all_goals cases hi

theorem exec_completes (i : Instr) : s.Completes (exec i s) := by
  cases hi : isEvent i with
  | true => exact exec_completes_of_event s i hi
  | false => exact exec_completes_of_command s i hi

end

/-! ### The front of the queue -/

theorem step_of_nil {s : State} (h : s.pending = []) : step s = .next s := by
  unfold step
  rw [h]

theorem step_of_cons {s : State} {c : Instr} {rest : List Instr} (h : s.pending = c :: rest) :
    step s = exec c { s with pending := rest } := by
  unfold step
  rw [h]

end Sys2Proof.Machine

namespace Sys2Proof.Proofs

open Sys2Proof Sys2Proof.Machine

/-- Settles O2: an event idles or ends what it has changed, a supervisor command is answered, and neither reaches the queue
of waiting commands. -/
theorem everyCommandCompletes : Obligations.EveryCommandCompletes := fun c s => exec_completes s c

/-- Settles O1: the front command runs in the state without it, which is the state it was put in front of. -/
theorem stepRunsTheFrontCommand : Obligations.StepRunsTheFrontCommand :=
  ⟨fun _ _ => step_of_cons rfl, fun _ => step_of_nil⟩

end Sys2Proof.Proofs
